-- ==== Sys2Proof/Word.lean ====
section
/-! DEFINITION. The words of the block: operands, limbs and bytes (spec/00_scope.md R5, R7), and the pair of
words every call returns. -/

namespace Sys2Proof

/-- An operand or a result word: `W` = 64 bits, unsigned, bit `i` weighs `2^i` (R5, R7). -/
abbrev Word := BitVec 64

/-- A limb: `L` = 32 bits (R5). -/
abbrev Limb := BitVec 32

/-- A byte of the byte form of a record (R39). -/
abbrev Byte := BitVec 8

/-- The two output words of a unit (R15, R33): `hi` holds product bits [127:64], `lo` bits [63:0]. -/
inductive OutPort where
  | hi
  | lo
deriving DecidableEq, Repr

/-- The result of one call: the product as a pair of words, `hi` first (R21, R24, R33). -/
structure Response where
  hi : Word
  lo : Word
deriving DecidableEq, Repr

/-- One word of the pair. -/
def Response.word (r : Response) : OutPort → Word
  | .hi => r.hi
  | .lo => r.lo

/-- The value of the pair, `hi * 2^64 + lo` (R21, R33). -/
def Response.value (r : Response) : Nat := r.hi.toNat * 2 ^ 64 + r.lo.toNat

end Sys2Proof
end

