-- ==== Sys2Proof/Config.lean ====
section
/-! DEFINITION. The three units, the build-time parameters the spec leaves open (spec/00_scope.md R6) and the
free values (spec/93_implementation_defined.md U3). -/

namespace Sys2Proof

/-- The three independent units of the block, MULA, MULB and MULN (R1, R2, R15). -/
inductive UnitId where
  | A
  | B
  | N
deriving DecidableEq, Repr

/-- `HAS_WIDE_MUL` (R6, R73, U1): whether MULN is built on a wide multiplier. OPEN in the spec, so it has no
value here. DESIGN CHOICE (log 3), safe. -/
opaque Config.hasWideMul : Bool

/-- One less than `T_PD` of each unit, see `Config.tPD`. -/
opaque Config.tPDLessOne : UnitId → Nat

/-- `T_PD` (R6, R94, R95, U6): the settling bound of each unit, finite, greater than zero, the same for all
operand values; the three units may have three bounds. It has no value in the spec. DESIGN CHOICE (log 4), safe. -/
def Config.tPD (u : UnitId) : Nat := Config.tPDLessOne u + 1

/-- What the host reads as `hi` when it reads early or changes an input between its two readings: "any value"
(R94, U3), one free word for each draw. DESIGN CHOICE (log 5), safe. -/
opaque Config.freeHi : Nat → Word

/-- What the host reads as `lo` then (R94, U3), see `Config.freeHi`. -/
opaque Config.freeLo : Nat → Word

/-- `N_INST` (R6, R87): copies of each unit. Copies are indistinguishable, so nothing reads it (log 15). -/
def Config.nInst (_ : UnitId) : Nat := 1

end Sys2Proof
end

