-- ==== Sys2Proof/Syntax.lean ====
section
/-! DEFINITION. The operations of the block (spec/30_encoding.md R30): exactly three, one per unit, each taking
two whole 64-bit operands (R34). -/

namespace Sys2Proof

/-- One call, as data: the operation and its two operands in argument order (R30, R34). -/
inductive Instr where
  /-- `MULA a, b` (R50). -/
  | mula (a b : Word)
  /-- `MULB a, b` (R60). -/
  | mulb (a b : Word)
  /-- `MULN a, b` (R70). -/
  | muln (a b : Word)
deriving DecidableEq, Repr

end Sys2Proof
end

