-- ==== Sys2Proof/WellFormed.lean ====
section
/-! DEFINITION. Well-formedness of operations and of request records written as numbers. An operation has no
ill-formed operand: every 64-bit pattern is legal (spec/30_encoding.md R34, spec/40_contract.md R40). A record
written as three numbers can be ill-formed. The well-formedness of test programs (R37) is in
Sys2Proof/Machine/Program.lean. -/

namespace Sys2Proof

/-- Every operation on every operand pair is well formed: no operand value is reserved, illegal or
special-cased (R34, R40). -/
def Instr.wellFormed : Instr → Bool
  | .mula _ _ => true
  | .mulb _ _ => true
  | .muln _ _ => true

/-- A request written as three numbers, before its fields are known to fit (R32). -/
structure RawRequest where
  unit : Nat
  a : Nat
  b : Nat
deriving DecidableEq, Repr

/-- The fields fit and the unit code names a unit (R32, R35, R36). -/
def RawRequest.wellFormed (r : RawRequest) : Bool :=
  decide (r.unit < 3) && decide (r.a < 2 ^ 64) && decide (r.b < 2 ^ 64)

/-- The operation a well-formed raw request names; none for an ill-formed one (R35, R36). -/
def RawRequest.toInstr (r : RawRequest) : Option Instr :=
  if r.wellFormed then
    if r.unit = 0 then some (.mula (BitVec.ofNat 64 r.a) (BitVec.ofNat 64 r.b))
    else if r.unit = 1 then some (.mulb (BitVec.ofNat 64 r.a) (BitVec.ofNat 64 r.b))
    else some (.muln (BitVec.ofNat 64 r.a) (BitVec.ofNat 64 r.b))
  else none

end Sys2Proof
end

