-- ==== Sys2Proof/Decode.lean ====
section
/-! DEFINITION. Request and response records, their byte forms, the decoder and, after it, the encoder
(spec/30_encoding.md R32, R33, R35, R36, R39). -/

namespace Sys2Proof

/-! ### Bits and bytes -/

/-- The number whose little-endian bytes are the list: byte `i` holds bits `[8i+7:8i]` (R39). -/
def natOfBytes : List Byte → Nat
  | [] => 0
  | b :: bs => b.toNat + 256 * natOfBytes bs

/-- The `k` lowest bytes of a number, byte 0 first (R39). -/
def bytesOfNat : Nat → Nat → List Byte
  | 0, _ => []
  | k + 1, v => BitVec.ofNat 8 v :: bytesOfNat k (v / 256)

/-! ### The unit code -/

/-- Unit codes (R35, D6): 0 = MULA, 1 = MULB, 2 = MULN. -/
def UnitId.code : UnitId → BitVec 2
  | .A => 0
  | .B => 1
  | .N => 2

/-- The unit a code names; 3 names none (R35, R36). -/
def UnitId.ofCode (c : BitVec 2) : Option UnitId :=
  if c = 0 then some .A
  else if c = 1 then some .B
  else if c = 2 then some .N
  else none

/-- The operation of a unit on two operands (R30, R31). -/
def Instr.ofUnit (u : UnitId) (a b : Word) : Instr :=
  match u with
  | .A => .mula a b
  | .B => .mulb a b
  | .N => .muln a b

/-- The unit an operation selects (R30, R31). -/
def Instr.unit : Instr → UnitId
  | .mula _ _ => .A
  | .mulb _ _ => .B
  | .muln _ _ => .N

/-- The first operand (R34). -/
def Instr.opA : Instr → Word
  | .mula a _ => a
  | .mulb a _ => a
  | .muln a _ => a

/-- The second operand (R34). -/
def Instr.opB : Instr → Word
  | .mula _ b => b
  | .mulb _ b => b
  | .muln _ b => b

/-! ### The decoder -/

/-- Why a record is invalid. Every one of these is a refusal at the boundary, outside the block (R88), safe. -/
inductive Reject where
  /-- the unit field is 3: it names no unit (R36, U4) -/
  | unitCode
  /-- byte 16 of the byte form is above 3 (R39, U9) -/
  | byte16 (high : Nat)
  /-- the byte form is not 17 bytes long (R39; log 11) -/
  | length (n : Nat)
deriving DecidableEq, Repr

/-- The `unit` field, `REQ[129:128]` (R32). -/
def reqUnit (w : BitVec 130) : BitVec 2 := w.extractLsb' 128 2

/-- The first operand field, `REQ[127:64]` (R32). -/
def reqA (w : BitVec 130) : Word := w.extractLsb' 64 64

/-- The second operand field, `REQ[63:0]` (R32). -/
def reqB (w : BitVec 130) : Word := w.extractLsb' 0 64

/-- The decoder of request records (R35): total, refusing unit code 3 by name (R36). -/
def decode (w : BitVec 130) : Except Reject Instr :=
  match UnitId.ofCode (reqUnit w) with
  | some u => .ok (Instr.ofUnit u (reqA w) (reqB w))
  | none => .error .unitCode

/-- The decoder of the byte form of a request record: 17 bytes, little-endian, byte 16 at most 3 (R39, U9). -/
def decodeBytes (bs : List Byte) : Except Reject Instr :=
  if bs.length = 17 then
    if natOfBytes bs < 2 ^ 130 then decode (BitVec.ofNat 130 (natOfBytes bs))
    else .error (.byte16 (natOfBytes bs / 2 ^ 128))
  else .error (.length bs.length)

/-! ### The encoder -/

/-- The request record of a call (R32, R35): `unit * 2^128 + a * 2^64 + b`. -/
def encode (i : Instr) : BitVec 130 := i.unit.code ++ i.opA ++ i.opB

/-- Its byte form (R39). -/
def encodeBytes (i : Instr) : List Byte := bytesOfNat 17 (encode i).toNat

/-! ### Response records -/

/-- The response record, `hi ‖ lo` (R33). -/
def encodeResponse (r : Response) : BitVec 128 := r.hi ++ r.lo

/-- The pair a response record holds (R33). -/
def decodeResponse (w : BitVec 128) : Response := ⟨w.extractLsb' 64 64, w.extractLsb' 0 64⟩

/-- The byte form of a response record: 16 bytes, little-endian, `lo` first (R39). -/
def encodeResponseBytes (r : Response) : List Byte := bytesOfNat 16 (encodeResponse r).toNat

/-- The pair that 16 bytes hold; another length is no response record (R39). -/
def decodeResponseBytes (bs : List Byte) : Option Response :=
  if bs.length = 16 then some (decodeResponse (BitVec.ofNat 128 (natOfBytes bs))) else none

/-! ### The opcode table -/

/-- A row of spec/opcode_table.json in match-and-mask form over the 130-bit record (R35). -/
structure OpcodeRow where
  mnemonic : String
  mask : BitVec 130
  pattern : BitVec 130
deriving DecidableEq, Repr

/-- The three rows of the table (R35). -/
def opcodeTable : List OpcodeRow :=
  [⟨"MULA", 0x300000000000000000000000000000000, 0x0⟩,
   ⟨"MULB", 0x300000000000000000000000000000000, 0x100000000000000000000000000000000⟩,
   ⟨"MULN", 0x300000000000000000000000000000000, 0x200000000000000000000000000000000⟩]

/-- The row's bits stand in the record (R35). -/
def OpcodeRow.hit (row : OpcodeRow) (w : BitVec 130) : Bool := w &&& row.mask == row.pattern

/-- The mnemonic of an operation (R30). -/
def Instr.mnemonic : Instr → String
  | .mula _ _ => "MULA"
  | .mulb _ _ => "MULB"
  | .muln _ _ => "MULN"

/-! ### The host's numbering of a table row -/

/-- The bytes of an instruction whose bits are `w`, bit 0 the least significant bit of byte 0: a request record's
17 bytes (R39), every bit from `nbits` up zero. More bits than a record has make more bytes, which
`decodeBytes` rejects (log 19). -/
def tableBytes (nbits w : Nat) : List Byte := bytesOfNat (max 17 ((nbits + 7) / 8)) (w % 2 ^ nbits)

/-- What the decoder reads from those bytes. -/
def decodeTableWord (nbits w : Nat) : Option Instr :=
  match decodeBytes (tableBytes nbits w) with
  | .ok i => some i
  | .error _ => none

end Sys2Proof
end

