-- ==== Sys2Proof/Machine/Program.lean ====
section
/-! DEFINITION. Test programs of the host and the other things the host can do to the block
(spec/30_encoding.md R37, R38; spec/70_reset_and_hazards.md R94). -/

namespace Sys2Proof.Machine

/-- A `src` of a program line (R37): a literal, or a word of the pair in an earlier slot. The literal is a number,
so that one of 65 bits can be written and refused. -/
inductive Src where
  | lit (v : Nat)
  | hi (slot : Nat)
  | lo (slot : Nat)
deriving DecidableEq, Repr

/-- A line `rK = op s1, s2` (R37). -/
structure Line where
  slot : Nat
  op : UnitId
  x : Src
  y : Src
deriving DecidableEq, Repr

/-- A line of a test program: a call, or the pseudo-operation `rK = XCHK s1, s2` (R37, R38). -/
inductive ProgLine where
  | call (l : Line)
  | xchk (slot : Nat) (x y : Src)
deriving DecidableEq, Repr

/-- One thing the host does. The first three are transaction-level (R32, R37, R38), the others are the host's
part of a port-level call (R94). -/
inductive HostItem where
  /-- present a request record in byte form (R32, R39) -/
  | record (bytes : List Byte)
  /-- perform a program line (R37) -/
  | line (l : Line)
  /-- the host's comparison of slots `k`, `k+1`, `k+2` after an XCHK on `x`, `y` (R38, R82) -/
  | check (k : Nat) (x y : Src)
  /-- drive `U.a` (R15, R94) -/
  | driveA (u : UnitId) (v : Word)
  /-- drive `U.b` (R15, R94) -/
  | driveB (u : UnitId) (v : Word)
  /-- let time pass with every input held (R94) -/
  | wait (n : Nat)
  /-- read `U.hi` and `U.lo` at the same moment (R94) -/
  | readBoth (u : UnitId)
  /-- read one output word of `U` (R94) -/
  | readOne (u : UnitId) (port : OutPort)
  /-- take the last words read of `U.hi` and `U.lo` as the pair of a call (R94; log 16) -/
  | takePair (u : UnitId)
deriving DecidableEq, Repr

/-- What a program line stands for (R37, R38): an XCHK is three lines on consecutive slots and a host check. -/
def ProgLine.expand : ProgLine → List HostItem
  | .call l => [.line l]
  | .xchk k x y =>
    [.line ⟨k, .A, x, y⟩, .line ⟨k + 1, .B, x, y⟩, .line ⟨k + 2, .N, x, y⟩, .check k x y]

/-- A whole test program as the host performs it. -/
def expand : List ProgLine → List HostItem
  | [] => []
  | p :: ps => p.expand ++ expand ps

/-- A `src` is well formed when `n` slots are assigned: a literal below `2^64`, or an assigned slot (R37). -/
def Src.wf (n : Nat) : Src → Bool
  | .lit v => decide (v < 2 ^ 64)
  | .hi k => decide (k < n)
  | .lo k => decide (k < n)

/-- Well-formedness of what the host still has to do when `n` slots are assigned (R37): slots are assigned in
order, each once, and a `src` names only an earlier slot. A request record is a call whose operands are already
resolved, so it takes the next slot (log 12). Port actions write no slot. -/
def itemsWf (n : Nat) : List HostItem → Bool
  | [] => true
  | .record _ :: is => itemsWf (n + 1) is
  | .line l :: is => l.slot == n && l.x.wf n && l.y.wf n && itemsWf (n + 1) is
  | .check k x y :: is => decide (k + 3 ≤ n) && x.wf n && y.wf n && itemsWf n is
  | .driveA _ _ :: is => itemsWf n is
  | .driveB _ _ :: is => itemsWf n is
  | .wait _ :: is => itemsWf n is
  | .readBoth _ :: is => itemsWf n is
  | .readOne _ _ :: is => itemsWf n is
  | .takePair _ :: is => itemsWf n is

/-- A test program is well formed (R37), checked before any call is made. -/
def programWf (p : List ProgLine) : Bool := itemsWf 0 (expand p)

end Sys2Proof.Machine
end

