-- ==== Sys2Proof/Machine/State.lean ====
section
/-! DEFINITION. The state. The block itself has none (spec/10_state.md R10 to R14, R18, R19); what State holds is
the one-element type the spec gives the block, the levels the host drives on the six input ports (R15, R94), and
the host's own data (spec/30_encoding.md R37, spec/70_reset_and_hazards.md R98). Log 1. -/

namespace Sys2Proof.Machine

/-- The state of the block: the one-element type (R10). -/
inductive Block where
  | stateless
deriving DecidableEq, Repr

/-- For how long both inputs of a unit have been unchanged (R94): for at least `T_PD`, or for less. -/
inductive Settle where
  | settled
  | moving (elapsed : Nat)
deriving DecidableEq, Repr

/-- The input ports of one unit (R15) and what the host knows of them. `none` is an input that is not driven to a
defined value (R91; log 6). The output ports are no state (R19). -/
structure PortGroup where
  a : Option Word
  b : Option Word
  settle : Settle
  /-- the host's own count of the times an input has changed: by it the host knows whether one changed between two
  readings (R94; log 16) -/
  changes : Nat
deriving DecidableEq, Repr

/-- A reading of one output word (R94). `value` is none when the word was read early and is no word of a call's
result (U3); `changes` is the unit's count at the moment of reading. Log 16. -/
structure WordReading where
  unit : UnitId
  port : OutPort
  value : Option Word
  changes : Nat
deriving DecidableEq, Repr

/-- The three port groups (R15). -/
structure Ports where
  A : PortGroup
  B : PortGroup
  N : PortGroup
deriving DecidableEq, Repr

/-- What the host reports when an XCHK fails (R38, R82): the operand pair and which of `hi`, `lo` diverged. -/
structure Divergence where
  a : Word
  b : Word
  hiDiffers : Bool
  loDiffers : Bool
deriving DecidableEq, Repr

/-- The state of the model (log 1). -/
structure State where
  /-- the block: nothing (R10) -/
  block : Block
  /-- what the host drives on the input ports (R15, R94) -/
  ports : Ports
  /-- what the host still has to do, first thing first (R37, R98) -/
  work : List HostItem
  /-- the host's result slots r0, r1, … (R37) -/
  slots : List Response
  /-- the host's divergence reports (R38, R82) -/
  reports : List Divergence
  /-- the pairs the host has read at the ports (R94) -/
  readings : List Response
  /-- the words the host has read one at a time, the last first (R94; log 16) -/
  words : List WordReading
  /-- the model's own counter of free values drawn (U3; log 5) -/
  draws : Nat
deriving DecidableEq, Repr

/-- Faults of the block: the set is empty (R80, R85), so nothing raises one and there is nothing safe or unsafe to
say of one. -/
inductive Fault where
deriving DecidableEq, Repr

/-- Refusals. All are verdicts of the host or of the record decoder, outside the block (R88). -/
inductive Refusal where
  /-- raised by an arm of `exec` whose instruction has no meaning yet (none); safe -/
  | notModelled (mnemonic : String)
  /-- raised by `present` on a record that names no call (R36, R39, R88); the spec asks for it; safe -/
  | invalidRecord (why : Reject)
  /-- raised by `step` on an ill-formed test program, before any call of it is made (R37, U7); safe -/
  | illFormedProgram
  /-- raised by a port reading of a unit whose inputs are not both driven (R91, U5); safe -/
  | inputsUndriven (u : UnitId)
  /-- raised by `step` when the host presents nothing: no unit acts unless called (R9; log 9); safe -/
  | noCallPresented
deriving DecidableEq, Repr

/-- A port group nobody drives yet (R91; log 6). -/
def PortGroup.undriven : PortGroup := ⟨none, none, .moving 0, 0⟩

/-- The machine at power-up. The block has nothing to reset (R19, R90); the host has presented nothing, so its
lists are empty (R37; log 17) and the model's counter is 0 (log 5). -/
def State.reset : State where
  block := .stateless
  ports := ⟨.undriven, .undriven, .undriven⟩
  work := []
  slots := []
  reports := []
  readings := []
  words := []
  draws := 0

end Sys2Proof.Machine
end

