-- ==== Sys2Proof/Machine/Operands.lean ====
section
/-! DEFINITION. Operand forms: the limb split and the partial products of the decomposition units
(spec/30_encoding.md R34; spec/41_mul_a.md R51, R52; spec/42_mul_b.md R61), zero extension, concatenation, and the
host's resolution of the operands of a program line (R37). -/

namespace Sys2Proof.Machine

/-- The high limb, `v[63:32]` (R34, R51, R61). -/
def hiLimb (v : Word) : Limb := v.extractLsb' 32 32

/-- The low limb, `v[31:0]` (R34, R51, R61). -/
def loLimb (v : Word) : Limb := v.extractLsb' 0 32

/-- `zext_64` of a limb (R8). -/
def zext (x : Limb) : Word := x.setWidth 64

/-- A 32x32 to 64 partial product (R52): the exact product of two limbs, which fits in 64 bits. -/
def mulLimb (x y : Limb) : Word := zext x * zext y

/-- `zext_64(x) << 32` (R53): a limb moved to bits [63:32]. -/
def atBit32 (x : Limb) : Word := zext x <<< 32

/-- `x ‖ y`, `x` in the more significant position (R8, R64). -/
def joinLimbs (x y : Limb) : Word := x ++ y

/-- The value of a `src` when the slots are `slots` (R37): a literal stands for itself, `rJ.hi` and `rJ.lo` are
words of the pair in slot `J`. None where R37 calls the `src` ill formed. -/
def Src.resolve (slots : List Response) : Src → Option Word
  | .lit v => if v < 2 ^ 64 then some (BitVec.ofNat 64 v) else none
  | .hi k => slots[k]?.map Response.hi
  | .lo k => slots[k]?.map Response.lo

end Sys2Proof.Machine
end

