-- ==== Sys2Proof/Machine/Flags.lean ====
section
/-! DEFINITION. The block has no flags (spec/10_state.md R13). What stands here is the only flag-like computation
of its datapaths: the one-bit carry-outs of MULA's 65-bit sums (spec/41_mul_a.md R53), which are internal nodes. -/

namespace Sys2Proof.Machine

/-- `zext_65(x) + zext_65(y)` (R53): a 64-bit addition with its carry-out in bit 64. -/
def sum65 (x y : Word) : BitVec 65 := x.setWidth 65 + y.setWidth 65

/-- The sum's low 64 bits (R53). -/
def sumWord (s : BitVec 65) : Word := s.extractLsb' 0 64

/-- The sum's carry-out (R53). -/
def carryOut (s : BitVec 65) : BitVec 1 := s.extractLsb' 64 1

/-- `zext_64` of a carry-out (R54). -/
def zextCarry (c : BitVec 1) : Word := c.setWidth 64

end Sys2Proof.Machine
end

