-- ==== Sys2Proof/Machine/Ops.lean ====
section
/-! DEFINITION. The named operations over State: the input ports, the passing of time, the slots, and the
completion of a call, which the three meanings share. There is no memory and no register to read or write
(spec/20_memory.md R20, spec/10_state.md R11), and no exception to take or return from
(spec/60_exceptions.md R80, R85). -/

namespace Sys2Proof.Machine

/-! ### Port groups -/

/-- The port group of a unit (R15, R31). -/
def Ports.group (p : Ports) : UnitId → PortGroup
  | .A => p.A
  | .B => p.B
  | .N => p.N

/-- Replace the port group of one unit; the others are independent of it (R2, R16). -/
def Ports.setGroup (p : Ports) (u : UnitId) (g : PortGroup) : Ports :=
  match u with
  | .A => { p with A := g }
  | .B => { p with B := g }
  | .N => { p with N := g }

/-- Put levels on both inputs. Driving the level an input already has is no change (R94 "keeps both unchanged";
log 18); a change starts the settling time again and is counted (R94, U3). -/
def PortGroup.setInputs (g : PortGroup) (a b : Option Word) : PortGroup :=
  if g.a = a ∧ g.b = b then g
  else { a := a, b := b, settle := .moving 0, changes := g.changes + 1 }

/-- The inputs have been held for at least `T_PD` (R94). -/
def PortGroup.settleNow (g : PortGroup) : PortGroup := { g with settle := .settled }

/-- Time passes with the inputs held (R94). An input that is not driven does not settle (R91). The bound is the
unit's own and no operand value enters it (R95). -/
def PortGroup.elapse (u : UnitId) (n : Nat) (g : PortGroup) : PortGroup :=
  match g.a, g.b, g.settle with
  | some _, some _, .moving e =>
    if Config.tPD u ≤ e + n then { g with settle := .settled } else { g with settle := .moving (e + n) }
  | _, _, _ => g

/-- The three units settle at the same time, each on its own (R31, R87, R95). -/
def Ports.elapse (n : Nat) (p : Ports) : Ports :=
  { A := p.A.elapse .A n, B := p.B.elapse .B n, N := p.N.elapse .N n }

/-! ### State -/

/-- Replace the port group of one unit. -/
def State.setGroup (s : State) (u : UnitId) (g : PortGroup) : State :=
  { s with ports := s.ports.setGroup u g }

/-- The host stores a response in the next slot (R37). -/
def State.storeSlot (s : State) (r : Response) : State := { s with slots := s.slots ++ [r] }

/-- The host notes a pair it has read at the ports (R94). -/
def State.noteReading (s : State) (r : Response) : State := { s with readings := s.readings ++ [r] }

/-- The host notes a pair of free words (R94, U3): any value, the next draw. -/
def State.noteFreeReading (s : State) : State :=
  { s with
    readings := s.readings ++ [⟨Config.freeHi s.draws, Config.freeLo s.draws⟩]
    draws := s.draws + 1 }

/-- The host notes one word it has read (R94). -/
def State.noteWord (s : State) (w : WordReading) : State := { s with words := w :: s.words }

/-- The last reading the host made of one output port, if it made any. -/
def State.lastWord (s : State) (u : UnitId) (port : OutPort) : Option WordReading :=
  s.words.find? (fun w => decide (w.unit = u ∧ w.port = port))

/-- Time passes at all ports (R94). -/
def State.wait (s : State) (n : Nat) : State := { s with ports := s.ports.elapse n }

/-- One call of unit `u` with its result `r`, atomic (R98). It is one port-level call under R94: the operands
stand on `U.a` and `U.b`, held for `T_PD` (log 2), and the host stores the pair in the next slot (R37). -/
def State.completeCall (s : State) (u : UnitId) (a b : Word) (r : Response) : State :=
  (s.setGroup u ((s.ports.group u).setInputs (some a) (some b)).settleNow).storeSlot r

end Sys2Proof.Machine
end

