-- ==== Sys2Proof/Machine/MulA.lean ====
section
/-! DEFINITION. Unit MULA, decomposition variant A (spec/41_mul_a.md R50 to R58). The nodes are the spec's
reference structure (R57; log 7): none is state, no port shows one (R17). -/

namespace Sys2Proof.Machine

/-- The nodes of MULA (R55). -/
structure NodesA where
  p00 : Word
  p01 : Word
  p10 : Word
  p11 : Word
  x01 : Word
  x10 : Word
  s1 : BitVec 65
  t1 : Word
  c1 : BitVec 1
  s2 : BitVec 65
  c2 : BitVec 1
  u01 : Limb
  u10 : Limb
  hi : Word
  lo : Word
deriving DecidableEq, Repr

/-- The datapath of MULA: partial products (R52), the low word as two 64-bit sums with one-bit carries (R53), the
high word (R54). -/
def nodesA (a b : Word) : NodesA :=
  let p00 := mulLimb (loLimb a) (loLimb b)
  let p01 := mulLimb (loLimb a) (hiLimb b)
  let p10 := mulLimb (hiLimb a) (loLimb b)
  let p11 := mulLimb (hiLimb a) (hiLimb b)
  let x01 := atBit32 (loLimb p01)
  let x10 := atBit32 (loLimb p10)
  let s1 := sum65 p00 x01
  let t1 := sumWord s1
  let c1 := carryOut s1
  let s2 := sum65 t1 x10
  let lo := sumWord s2
  let c2 := carryOut s2
  let u01 := hiLimb p01
  let u10 := hiLimb p10
  let hi := p11 + zext u01 + zext u10 + zextCarry c1 + zextCarry c2
  { p00, p01, p10, p11, x01, x10, s1, t1, c1, s2, c2, u01, u10, hi, lo }

/-- The output words of unit MULA (R16, R50). -/
def mulA (a b : Word) : Response := ⟨(nodesA a b).hi, (nodesA a b).lo⟩

/-- `MULA a, b` (R50, R98). -/
def execMula (a b : Word) (s : State) : Host.Outcome State Fault Refusal :=
  .next (s.completeCall .A a b (mulA a b))

end Sys2Proof.Machine
end

