-- ==== Sys2Proof/Machine/MulB.lean ====
section
/-! DEFINITION. Unit MULB, decomposition variant B (spec/42_mul_b.md R60 to R68). The nodes are the spec's
reference structure (R67; log 7): none is state, no port shows one (R17). -/

namespace Sys2Proof.Machine

/-- The nodes of MULB (R65). -/
structure NodesB where
  t0 : Word
  w0 : Limb
  k0 : Limb
  q10 : Word
  t1 : Word
  w1 : Limb
  w2 : Limb
  q01 : Word
  t2 : Word
  v1 : Limb
  k2 : Limb
  q11 : Word
  hi : Word
  lo : Word
deriving DecidableEq, Repr

/-- The datapath of MULB: column 0 (R62), column 1 with its running carry words (R63), the result (R64). -/
def nodesB (a b : Word) : NodesB :=
  let t0 := mulLimb (loLimb a) (loLimb b)
  let w0 := loLimb t0
  let k0 := hiLimb t0
  let q10 := mulLimb (hiLimb a) (loLimb b)
  let t1 := q10 + zext k0
  let w1 := loLimb t1
  let w2 := hiLimb t1
  let q01 := mulLimb (loLimb a) (hiLimb b)
  let t2 := q01 + zext w1
  let v1 := loLimb t2
  let k2 := hiLimb t2
  let lo := joinLimbs v1 w0
  let q11 := mulLimb (hiLimb a) (hiLimb b)
  let hi := q11 + zext w2 + zext k2
  { t0, w0, k0, q10, t1, w1, w2, q01, t2, v1, k2, q11, hi, lo }

/-- The output words of unit MULB (R16, R60). -/
def mulB (a b : Word) : Response := ⟨(nodesB a b).hi, (nodesB a b).lo⟩

/-- `MULB a, b` (R60, R98). -/
def execMulb (a b : Word) (s : State) : Host.Outcome State Fault Refusal :=
  .next (s.completeCall .B a b (mulB a b))

end Sys2Proof.Machine
end

