-- ==== Sys2Proof/Machine/MulN.lean ====
section
/-! DEFINITION. Unit MULN, native/widening variant (spec/43_mul_n.md R70 to R74). -/

namespace Sys2Proof.Machine

/-- The one node of the wide-multiply strategy (R70, R71): `zext_128(a) * zext_128(b)`. -/
def wideProduct (a b : Word) : BitVec 128 := a.setWidth 128 * b.setWidth 128

/-- The wide-multiply strategy (R71): `hi` and `lo` are wiring. -/
def mulWide (a b : Word) : Response :=
  ⟨(wideProduct a b).extractLsb' 64 64, (wideProduct a b).extractLsb' 0 64⟩

/-- The fallback strategy (R72): a second copy of MULA's datapath (R51 to R54) on MULN's own operands (log 8). -/
def mulFallback (a b : Word) : Response := ⟨(nodesA a b).hi, (nodesA a b).lo⟩

/-- The output words of unit MULN for either build (R16, R70, R73). -/
def mulN (wide : Bool) (a b : Word) : Response :=
  match wide with
  | true => mulWide a b
  | false => mulFallback a b

/-- `MULN a, b` (R70, R98), on whichever strategy the block was built with (R6, R73). -/
def execMuln (a b : Word) (s : State) : Host.Outcome State Fault Refusal :=
  .next (s.completeCall .N a b (mulN Config.hasWideMul a b))

end Sys2Proof.Machine
end

