-- ==== Sys2Proof/Machine/Dispatch.lean ====
section
/-! DEFINITION. One arm per operation of the block (spec/30_encoding.md R30). -/

namespace Sys2Proof.Machine

def exec (i : Instr) (s : State) : Host.Outcome State Fault Refusal :=
  match i with
  | .mula a b => Sys2Proof.Machine.execMula a b s
  | .mulb a b => Sys2Proof.Machine.execMulb a b s
  | .muln a b => Sys2Proof.Machine.execMuln a b s

end Sys2Proof.Machine
end

