-- ==== Sys2Proof/Machine/PortLevel.lean ====
section
/-! DEFINITION. The port level: the output ports as a function of the input ports (spec/10_state.md R16) and the
host's part of a call (spec/70_reset_and_hazards.md R94, R97; spec/93_implementation_defined.md U3, U5). -/

namespace Sys2Proof.Machine

/-- What unit `u` computes from its two inputs (R16): its instruction rule, and nothing else enters. -/
def unitResult (u : UnitId) (a b : Word) : Response :=
  match u with
  | .A => mulA a b
  | .B => mulB a b
  | .N => mulN Config.hasWideMul a b

/-- The output ports of unit `u` (R16): the result of its inputs once they are driven and settled, else no
architectural value (R91, R94). -/
def outputWords (u : UnitId) (g : PortGroup) : Option Response :=
  match g.a, g.b, g.settle with
  | some a, some b, .settled => some (unitResult u a b)
  | _, _, _ => none

/-- Both inputs are driven to defined values (R91). -/
def PortGroup.driven (g : PortGroup) : Bool := g.a.isSome && g.b.isSome

/-- The host puts a level on `U.a` (R94). -/
def State.driveA (s : State) (u : UnitId) (v : Word) : State :=
  s.setGroup u ((s.ports.group u).setInputs (some v) (s.ports.group u).b)

/-- The host puts a level on `U.b` (R94). -/
def State.driveB (s : State) (u : UnitId) (v : Word) : State :=
  s.setGroup u ((s.ports.group u).setInputs (s.ports.group u).a (some v))

/-- The host reads `U.hi` and `U.lo` at the same moment (R94): the result of the inputs if they have settled, any
value if not (U3), nothing if an input is not driven (R91, U5). -/
def State.readBoth (s : State) (u : UnitId) : Host.Outcome State Fault Refusal :=
  if (s.ports.group u).driven then
    match outputWords u (s.ports.group u) with
    | some r => .next (s.noteReading r)
    | none => .next s.noteFreeReading
  else .refused (.inputsUndriven u)

/-- The host reads one output word of `U` and notes it; nothing else changes, at the ports or in what was noted
before (R25, R94). A word read early is none of a call's result (U3). -/
def State.readOne (s : State) (u : UnitId) (port : OutPort) : Host.Outcome State Fault Refusal :=
  if (s.ports.group u).driven then
    .next (s.noteWord
      { unit := u
        port := port
        value := (outputWords u (s.ports.group u)).map (fun r => r.word port)
        changes := (s.ports.group u).changes })
  else .refused (.inputsUndriven u)

/-- The pair that two words make: both read settled, with no input changed between the two (R94), else none. -/
def pairOf (hi lo : WordReading) : Option Response :=
  match hi.value, lo.value with
  | some h, some l => if hi.changes = lo.changes then some ⟨h, l⟩ else none
  | _, _ => none

/-- The pair that the last reading of `U.hi` and the last reading of `U.lo` make, whichever came first (R94). -/
def State.lastPair (s : State) (u : UnitId) : Option Response :=
  match s.lastWord u .hi, s.lastWord u .lo with
  | some hi, some lo => pairOf hi lo
  | _, _ => none

/-- The host takes the last words it read of `U.hi` and `U.lo` as the pair of a call: the result if they are one
call's, any value if not (R94, U3). Earlier readings and abandoned calls do not matter (R25, R27). Log 16. -/
def State.takePair (s : State) (u : UnitId) : State :=
  match s.lastPair u with
  | some r => s.noteReading r
  | none => s.noteFreeReading

end Sys2Proof.Machine
end

