-- ==== Sys2Proof/Machine/Session.lean ====
section
/-! DEFINITION. What the host does with the block: presenting a record, performing a line of a test program, the
XCHK check, port actions (spec/30_encoding.md R36 to R39; spec/60_exceptions.md R82, R88;
spec/70_reset_and_hazards.md R94, R98). -/

namespace Sys2Proof.Machine

/-- Present a request record in byte form: a valid one is one call, an invalid one is refused at the boundary, no
call is made and no slot is written (R36, R39, R88). -/
def present (bs : List Byte) (s : State) : Host.Outcome State Fault Refusal :=
  match decodeBytes bs with
  | .ok i => exec i s
  | .error e => .refused (.invalidRecord e)

/-- Perform a line (R37): resolve both sources; the block sees only the resolved request (R32). -/
def performLine (l : Line) (s : State) : Host.Outcome State Fault Refusal :=
  match l.x.resolve s.slots, l.y.resolve s.slots with
  | some a, some b => present (encodeBytes (Instr.ofUnit l.op a b)) s
  | _, _ => .refused .illFormedProgram

/-- Which words of three responses are not all equal (R38, R82). -/
def divergence (a b : Word) (ra rb rn : Response) : Divergence :=
  { a := a
    b := b
    hiDiffers := !(ra.hi == rb.hi && rb.hi == rn.hi)
    loDiffers := !(ra.lo == rb.lo && rb.lo == rn.lo) }

/-- The host check of an XCHK (R38): slots `k`, `k+1`, `k+2` hold the same pair, or the divergence is reported
(R82; log 13). -/
def hostCheck (k : Nat) (x y : Src) (s : State) : Host.Outcome State Fault Refusal :=
  match s.slots[k]?, s.slots[k + 1]?, s.slots[k + 2]?, x.resolve s.slots, y.resolve s.slots with
  | some ra, some rb, some rn, some a, some b =>
    if ra = rb ∧ rb = rn then .next s
    else .next { s with reports := s.reports ++ [divergence a b ra rb rn] }
  | _, _, _, _, _ => .refused .illFormedProgram

/-- Do one thing of the host's. -/
def perform (it : HostItem) (s : State) : Host.Outcome State Fault Refusal :=
  match it with
  | .record bs => present bs s
  | .line l => performLine l s
  | .check k x y => hostCheck k x y s
  | .driveA u v => .next (s.driveA u v)
  | .driveB u v => .next (s.driveB u v)
  | .wait n => .next (s.wait n)
  | .readBoth u => s.readBoth u
  | .readOne u port => s.readOne u port
  | .takePair u => .next (s.takePair u)

/-- The next thing the host does is taken off its list. -/
def State.popWork (s : State) : State := { s with work := s.work.tail }

/-- Whether what the host still has to do is well formed (R37). -/
def State.workWf (s : State) : Bool := itemsWf s.slots.length s.work

/-- Place a test program: its start state is the empty slot list (R37, R98; log 9). -/
def State.load (s : State) (p : List ProgLine) : State := { s with work := expand p, slots := [] }

/-- Place one request record as all there is to do (log 10). -/
def State.placeRecord (s : State) (bs : List Byte) : State := { s with work := [.record bs] }

end Sys2Proof.Machine
end

