-- ==== Sys2Proof/Machine/Step.lean ====
section
/-! DEFINITION. One step (spec/70_reset_and_hazards.md R98): the host does the first thing on its list. -/

namespace Sys2Proof.Machine

/-- The step. With nothing presented there is no step (R9; log 9). An ill-formed program is refused before any of
its calls is made (R37; log 12). -/
def step (s : State) : Host.Outcome State Fault Refusal :=
  match s.work with
  | [] => .refused .noCallPresented
  | it :: _ => if s.workWf then perform it s.popWork else .refused .illFormedProgram

/-- The state whose next step presents the request record with bits `w` (log 10). -/
def State.withFetchWord (s : State) (nbits w : Nat) : State := s.placeRecord (tableBytes nbits w)

end Sys2Proof.Machine
end

