-- ==== Sys2Proof/Machine/Text.lean ====
section
/-! DEFINITION. The written forms: records as text (spec/30_encoding.md R39) and test programs (R37, R38). A text
is a list of characters. What the spec leaves open of the spelling is in log 14. -/

namespace Sys2Proof.Machine

/-! ### Digits -/

/-- The hexadecimal digit of a value below 16, capital letters as the spec writes them (R39). -/
def hexDigit (d : Nat) : Char := Char.ofNat (if d < 10 then 48 + d else 55 + d)

/-- The value of a hexadecimal digit, capital or small (R7; log 14). -/
def hexValue (c : Char) : Option Nat :=
  let n := c.toNat
  if 48 ≤ n ∧ n < 58 then some (n - 48)
  else if 65 ≤ n ∧ n < 71 then some (n - 55)
  else if 97 ≤ n ∧ n < 103 then some (n - 87)
  else none

/-- The `k` lowest hexadecimal digits of a number, most significant first (R7, R39). -/
def hexDigits : Nat → Nat → List Char
  | 0, _ => []
  | k + 1, v => hexDigits k (v / 16) ++ [hexDigit (v % 16)]

/-- The number that hexadecimal digits write, most significant first (R7). -/
def readHex (acc : Nat) : List Char → Option Nat
  | [] => some acc
  | c :: cs =>
    match hexValue c with
    | some d => readHex (16 * acc + d) cs
    | none => none

/-- The value of a decimal digit. -/
def decValue (c : Char) : Option Nat :=
  let n := c.toNat
  if 48 ≤ n ∧ n < 58 then some (n - 48) else none

/-- The number that decimal digits write. -/
def readDec (acc : Nat) : List Char → Option Nat
  | [] => some acc
  | c :: cs =>
    match decValue c with
    | some d => readDec (10 * acc + d) cs
    | none => none

/-! ### Records (R39) -/

/-- A request record as text, `0xU_AAAAAAAAAAAAAAAA_BBBBBBBBBBBBBBBB` (R39). -/
def textOfRequest (i : Instr) : List Char :=
  '0' :: 'x' :: hexDigit i.unit.code.toNat :: '_' ::
    (hexDigits 16 i.opA.toNat ++ '_' :: hexDigits 16 i.opB.toNat)

/-- The call a request text writes; none for a text of another shape or with a unit digit above 2 (R36, R39). -/
def requestOfText : List Char → Option Instr
  | '0' :: 'x' :: u :: '_' :: rest =>
    if rest.length = 33 ∧ rest[16]? = some '_' then
      match hexValue u, readHex 0 (rest.take 16), readHex 0 (rest.drop 17) with
      | some c, some a, some b => RawRequest.toInstr ⟨c, a, b⟩
      | _, _, _ => none
    else none
  | _ => none

/-- A response record as text, `0xHHHHHHHHHHHHHHHH_LLLLLLLLLLLLLLLL` (R39). -/
def textOfResponse (r : Response) : List Char :=
  '0' :: 'x' :: (hexDigits 16 r.hi.toNat ++ '_' :: hexDigits 16 r.lo.toNat)

/-- The pair a response text writes (R39). -/
def responseOfText : List Char → Option Response
  | '0' :: 'x' :: rest =>
    if rest.length = 33 ∧ rest[16]? = some '_' then
      match readHex 0 (rest.take 16), readHex 0 (rest.drop 17) with
      | some h, some l => some ⟨BitVec.ofNat 64 h, BitVec.ofNat 64 l⟩
      | _, _ => none
    else none
  | _ => none

/-! ### Test programs (R37, R38) -/

/-- The pieces of a program line. -/
inductive Token where
  | word (cs : List Char)
  | equals
  | comma
deriving DecidableEq, Repr

/-- Letters, digits, the dot of `rJ.hi` and the visual separator of a literal (R7, R37). -/
def isWordChar (c : Char) : Bool := c.isAlphanum || c == '.' || c == '_'

/-- End the word being read, if there is one. -/
def flushWord (acc : List Char) (ts : List Token) : List Token :=
  match acc with
  | [] => ts
  | c :: cs => .word (c :: cs) :: ts

/-- Cut a line into pieces; spaces separate (log 14). -/
def tokens (acc : List Char) : List Char → Option (List Token)
  | [] => some (flushWord acc [])
  | c :: cs =>
    if isWordChar c then tokens (acc ++ [c]) cs
    else if c = ' ' then (tokens [] cs).map (flushWord acc)
    else if c = '=' then (tokens [] cs).map (fun ts => flushWord acc (.equals :: ts))
    else if c = ',' then (tokens [] cs).map (fun ts => flushWord acc (.comma :: ts))
    else none

/-- `slot ::= "r" decimal-number` (R37). -/
def slotOfText : List Char → Option Nat
  | 'r' :: d :: ds => readDec 0 (d :: ds)
  | _ => none

/-- A hexadecimal literal's digits; an underscore has no value (R7). -/
def literalOfText (cs : List Char) : Option Nat :=
  match cs.filter (fun c => c != '_') with
  | [] => none
  | d :: ds => readHex 0 (d :: ds)

/-- `src ::= hex-literal | slot ".hi" | slot ".lo"` (R37). -/
def srcOfText : List Char → Option Src
  | '0' :: 'x' :: ds => (literalOfText ds).map Src.lit
  | cs =>
    let word := cs.takeWhile (fun c => c != '.')
    match slotOfText word, cs.dropWhile (fun c => c != '.') with
    | some k, ['.', 'h', 'i'] => some (.hi k)
    | some k, ['.', 'l', 'o'] => some (.lo k)
    | _, _ => none

/-- `op ::= "MULA" | "MULB" | "MULN"` (R37). -/
def opOfText : List Char → Option UnitId
  | ['M', 'U', 'L', 'A'] => some .A
  | ['M', 'U', 'L', 'B'] => some .B
  | ['M', 'U', 'L', 'N'] => some .N
  | _ => none

/-- `line ::= slot "=" op src "," src` (R37), or an XCHK in the place of the operation (R38). -/
def lineOfText (cs : List Char) : Option ProgLine :=
  match tokens [] cs with
  | some [.word k, .equals, .word op, .word x, .comma, .word y] =>
    match slotOfText k, srcOfText x, srcOfText y with
    | some k, some x, some y =>
      if op = ['X', 'C', 'H', 'K'] then some (.xchk k x y)
      else (opOfText op).map (fun u => .call ⟨k, u, x, y⟩)
    | _, _, _ => none
  | _ => none

/-- `program ::= line*` (R37), the lines already apart. -/
def programOfText : List (List Char) → Option (List ProgLine)
  | [] => some []
  | l :: ls =>
    match lineOfText l, programOfText ls with
    | some p, some ps => some (p :: ps)
    | _, _ => none

/-- Place a written test program; one that does not read as R37 has it is refused as a whole (U7). -/
def State.loadText (s : State) (lines : List (List Char)) : Host.Outcome State Fault Refusal :=
  match programOfText lines with
  | some p => if programWf p then .next (s.load p) else .refused .illFormedProgram
  | none => .refused .illFormedProgram

end Sys2Proof.Machine
end

