-- ==== Sys2Proof/Safety.lean ====
section
/-! DEFINITION. What claims about the block are stated in: the exact product (spec/40_contract.md R41, R42), the
value of a test program (spec/70_reset_and_hazards.md R98), the invariant of the machine and what a safe run is. -/

namespace Sys2Proof.Machine

/-- The contract (R41, R42): `hi = floor(a·b / 2^64)`, `lo = (a·b) mod 2^64`, over the integers. -/
def exactProduct (a b : Word) : Response :=
  ⟨BitVec.ofNat 64 (a.toNat * b.toNat / 2 ^ 64), BitVec.ofNat 64 (a.toNat * b.toNat % 2 ^ 64)⟩

/-- The value of a test program by the contract alone: the left-to-right fold of its lines over the slot list
(R37, R38, R98). None where a source cannot be resolved. -/
def evalProgram (slots : List Response) : List ProgLine → Option (List Response)
  | [] => some slots
  | .call l :: ps =>
    match l.x.resolve slots, l.y.resolve slots with
    | some a, some b => evalProgram (slots ++ [exactProduct a b]) ps
    | _, _ => none
  | .xchk _ x y :: ps =>
    match x.resolve slots, y.resolve slots with
    | some a, some b =>
      evalProgram (slots ++ [exactProduct a b, exactProduct a b, exactProduct a b]) ps
    | _, _ => none

/-- Every slot holds the exact product of some operand pair (R40, R41). -/
def SlotsExact (s : State) : Prop := ∀ r ∈ s.slots, ∃ a b, r = exactProduct a b

/-- Settled inputs are driven (R91, R94). -/
def PortsConsistent (s : State) : Prop :=
  ∀ u, (s.ports.group u).settle = .settled → (s.ports.group u).driven = true

/-- A settled word read of a unit no later than now; if no input has changed since, the inputs are still settled and
it is a word of their product (R16, R94). -/
def WordReading.Current (s : State) (w : WordReading) : Prop :=
  ∀ v, w.value = some v → w.changes ≤ (s.ports.group w.unit).changes ∧
    (w.changes = (s.ports.group w.unit).changes → (s.ports.group w.unit).settle = .settled ∧
      ∃ a b, (s.ports.group w.unit).a = some a ∧ (s.ports.group w.unit).b = some b ∧
        v = (exactProduct a b).word w.port)

/-- Two settled words read of one unit with no input changed between them are words of one product (R24, R94). -/
def WordReading.Agree (w x : WordReading) : Prop :=
  w.unit = x.unit → w.changes = x.changes → ∀ v y, w.value = some v → x.value = some y →
    ∃ a b, v = (exactProduct a b).word w.port ∧ y = (exactProduct a b).word x.port

/-- The words the host has noted are consistent with the ports and with each other. -/
def WordsConsistent (s : State) : Prop :=
  (∀ w ∈ s.words, w.Current s) ∧ ∀ w ∈ s.words, ∀ x ∈ s.words, w.Agree x

/-- Every pair the host has noted is the exact product of one operand pair or a free pair already drawn, never the
`hi` of one product with the `lo` of another (R24, R94, U3). -/
def ReadingsWhole (s : State) : Prop :=
  ∀ r ∈ s.readings, (∃ a b, r = exactProduct a b) ∨ ∃ n < s.draws, r = ⟨Config.freeHi n, Config.freeLo n⟩

/-- The invariant of the machine. -/
def Sound (s : State) : Prop :=
  SlotsExact s ∧ PortsConsistent s ∧ WordsConsistent s ∧ ReadingsWhole s

/-- An outcome that goes on. -/
def Completes (o : Host.Outcome State Fault Refusal) : Prop := ∃ t, o = .next t

/-- A safe run: every one of its `k` steps completes. -/
def SafeRun (k : Nat) (s : State) : Prop := Completes (Host.Core.run Sys2Proof.core k s)

end Sys2Proof.Machine
end

