-- ==== Sys2Proof/Certificates/Slice0/Obligations.lean ====
section
/-! DEFINITION. The statements for the provers. Each names the rules of spec/ it formalises. `Instr.ofUnit u a b` is
the operation of unit `u` (MULA, MULB, MULN for A, B, N), so a statement about every `u` is about all three. -/

open Sys2Proof Sys2Proof.Machine

/-! ### Reset -/

/-- Reset (10_state R19, 70_reset R91). That the host's lists are empty, the inputs not driven and the counter 0 is
the model's choice (log 5, log 6, log 17), but for the empty slot list of R37; that there is no step with nothing
presented is log 9. From there the first call returns the exact product like every later one (R91). -/
def Obligations.ResetHoldsNothingAndFirstCallIsExact : Prop :=
  State.reset.work = [] ∧ State.reset.slots = [] ∧ State.reset.reports = [] ∧ State.reset.readings = [] ∧
  State.reset.words = [] ∧ State.reset.draws = 0 ∧ (∀ u, State.reset.ports.group u = PortGroup.undriven) ∧
  step State.reset = .refused .noCallPresented ∧
  ∀ i : Instr, ∃ t, exec i State.reset = .next t ∧ t.slots = [exactProduct i.opA i.opB]

/-! ### Records: encoding and decoding -/

/-- The records Q1 to Q7 of 95_test_vectors section 5, written out, decode to the calls they stand for (R32, R35,
R36). -/
def Obligations.WrittenRecordsDecode : Prop :=
  decode 0x080000000000000000000000000000002 = .ok (.mula 0x8000000000000000 2) ∧
  decode 0x100000000FFFFFFFF00000000FFFFFFFF = .ok (.mulb 0xFFFFFFFF 0xFFFFFFFF) ∧
  decode 0x2FFFFFFFFFFFFFFFFFFFFFFFFFFFFFFFF = .ok (.muln 0xFFFFFFFFFFFFFFFF 0xFFFFFFFFFFFFFFFF) ∧
  decode 0 = .ok (.mula 0 0) ∧
  decode 0x300000000000000000000000000000000 = .error .unitCode ∧
  decode 0x3FFFFFFFFFFFFFFFFFFFFFFFFFFFFFFFF = .error .unitCode ∧
  decode 0x20000000000000001123456789ABCDEF0 = .ok (.muln 1 0x123456789ABCDEF0) ∧
  decodeBytes [2, 0, 0, 0, 0, 0, 0, 0, 0, 0, 0, 0, 0, 0, 0, 0x80, 0] = .ok (.mula 0x8000000000000000 2)

/-- The whole opcode map (R35): the unit codes, the value of a record, the total decoder by unit code, both round
trips over all `2^130` records, and the match-and-mask table. -/
def Obligations.RecordDecoderAndEncoderAgree : Prop :=
  UnitId.A.code = 0 ∧ UnitId.B.code = 1 ∧ UnitId.N.code = 2 ∧
  (∀ u a b, (encode (Instr.ofUnit u a b)).toNat = u.code.toNat * 2 ^ 128 + a.toNat * 2 ^ 64 + b.toNat) ∧
  (∀ w : BitVec 130,
    (reqUnit w = 0 → decode w = .ok (.mula (reqA w) (reqB w))) ∧
    (reqUnit w = 1 → decode w = .ok (.mulb (reqA w) (reqB w))) ∧
    (reqUnit w = 2 → decode w = .ok (.muln (reqA w) (reqB w))) ∧
    (reqUnit w = 3 → decode w = .error .unitCode)) ∧
  (∀ i : Instr, i.wellFormed = true ∧ decode (encode i) = .ok i) ∧
  (∀ w i, decode w = .ok i → encode i = w) ∧
  opcodeTable.map OpcodeRow.mnemonic = ["MULA", "MULB", "MULN"] ∧
  (∀ row ∈ opcodeTable, ∀ w, row.hit w = true ↔ ∃ i, decode w = .ok i ∧ i.mnemonic = row.mnemonic)

/-- The byte form of a request record (R39): 17 bytes, byte `k` below 16 holds bits `[8k+7:8k]`, byte 16 holds the
unit code in bits [1:0] with bits [7:2] zero; it decodes to the call, and a byte form that decodes is that call's
byte form, bit for bit. That a list of another length than 17 never decodes, which the last clause also says, is the
model's choice (log 11), not R39's. -/
def Obligations.ByteFormOfRequestRoundTrips : Prop :=
  (∀ i : Instr, (encodeBytes i).length = 17 ∧
    (∀ k < 16, (encodeBytes i)[k]? = some ((encode i).extractLsb' (8 * k) 8)) ∧
    (encodeBytes i)[16]? = some (i.unit.code.setWidth 8) ∧
    decodeBytes (encodeBytes i) = .ok i) ∧
  (∀ bs i, decodeBytes bs = .ok i → encodeBytes i = bs)

/-- The response record (R33): `hi` in bits [127:64], `lo` in bits [63:0], as an integer the product itself; and
nothing but the pair: it reads back as the pair. -/
def Obligations.ResponseRecordIsTheProduct : Prop :=
  ∀ (i : Instr) (s : State), ∃ t r, exec i s = .next t ∧ t.slots = s.slots ++ [r] ∧
    (encodeResponse r).extractLsb' 64 64 = r.hi ∧ (encodeResponse r).extractLsb' 0 64 = r.lo ∧
    (encodeResponse r).toNat = r.hi.toNat * 2 ^ 64 + r.lo.toNat ∧
    (encodeResponse r).toNat = i.opA.toNat * i.opB.toNat ∧
    decodeResponse (encodeResponse r) = r

/-- The byte form of a response record (R39): 16 bytes, byte `k` holds bits `[8k+7:8k]`, so bytes 0 to 7 are `lo`
and bytes 8 to 15 are `hi`; it reads back as the pair. That no other length reads as a response is the model's
choice (log 11), not R39's. -/
def Obligations.ByteFormOfResponseRoundTrips : Prop :=
  (∀ r : Response, (encodeResponseBytes r).length = 16 ∧
    (∀ k < 8, (encodeResponseBytes r)[k]? = some (r.lo.extractLsb' (8 * k) 8) ∧
      (encodeResponseBytes r)[8 + k]? = some (r.hi.extractLsb' (8 * k) 8)) ∧
    decodeResponseBytes (encodeResponseBytes r) = some r) ∧
  (∀ bs, bs.length ≠ 16 → decodeResponseBytes bs = none)

/-- The text forms of records (R39), character by character: `0x`, the unit digit, `_`, 16 digits of `a`, `_`, 16
digits of `b`; `0x`, 16 digits of `hi`, `_`, 16 digits of `lo`; hexadecimal, most significant digit first. Each
reads back as what was written. That the digits are written as capitals is log 14. -/
def Obligations.TextFormsRoundTrip : Prop :=
  (List.range 16).map hexDigit = "0123456789ABCDEF".toList ∧
  (∀ i : Instr, (textOfRequest i).length = 37 ∧
    (textOfRequest i)[0]? = some '0' ∧ (textOfRequest i)[1]? = some 'x' ∧
    (textOfRequest i)[2]? = some (match i.unit with | .A => '0' | .B => '1' | .N => '2') ∧
    (textOfRequest i)[3]? = some '_' ∧ (textOfRequest i)[20]? = some '_' ∧
    (∀ k < 16, (textOfRequest i)[4 + k]? = some (hexDigit (i.opA.toNat / 16 ^ (15 - k) % 16)) ∧
      (textOfRequest i)[21 + k]? = some (hexDigit (i.opB.toNat / 16 ^ (15 - k) % 16))) ∧
    requestOfText (textOfRequest i) = some i) ∧
  (∀ r : Response, (textOfResponse r).length = 35 ∧
    (textOfResponse r)[0]? = some '0' ∧ (textOfResponse r)[1]? = some 'x' ∧ (textOfResponse r)[18]? = some '_' ∧
    (∀ k < 16, (textOfResponse r)[2 + k]? = some (hexDigit (r.hi.toNat / 16 ^ (15 - k) % 16)) ∧
      (textOfResponse r)[19 + k]? = some (hexDigit (r.lo.toNat / 16 ^ (15 - k) % 16))) ∧
    responseOfText (textOfResponse r) = some r)

/-- A record with unit code 3 has no behaviour (R36, R88): the decoder says Invalid, and presenting it refuses, so
no call is made and no slot is written. Every record with another unit code is valid, and presenting it completes
with the exact product of its operand fields. Both at a step of the machine, from any byte form of the record. -/
def Obligations.UnitCodeThreeIsRefusedAndTheOthersRun : Prop :=
  ∀ (w : BitVec 130) (bs : List Byte) (s : State) (rest : List HostItem),
    bs.length = 17 → natOfBytes bs = w.toNat → s.work = .record bs :: rest → s.workWf = true →
    (reqUnit w = 3 → decode w = .error .unitCode ∧ step s = .refused (.invalidRecord .unitCode)) ∧
    (reqUnit w ≠ 3 → ∃ i t, decode w = .ok i ∧ step s = .next t ∧
      t.slots = s.slots ++ [exactProduct (reqA w) (reqB w)])

/-- A byte form of another length (log 11), or with byte 16 above 3 (R39, U9), is invalid, and presenting it
refuses. -/
def Obligations.MalformedByteFormsAreRefused : Prop :=
  ∀ (bs : List Byte) (s : State) (rest : List HostItem), s.work = .record bs :: rest → s.workWf = true →
    (bs.length ≠ 17 → step s = .refused (.invalidRecord (.length bs.length))) ∧
    (∀ b, bs.length = 17 → bs[16]? = some b → 3 < b.toNat →
      step s = .refused (.invalidRecord (.byte16 b.toNat)))

/-! ### The step -/

/-- A step presents the record at the head of the host's work and runs the call it decodes to, the record taken off
the work and nothing else changed before `exec` (R98). -/
def Obligations.StepRunsThePresentedRecord : Prop :=
  ∀ (s : State) (bs : List Byte) (rest : List HostItem) (i : Instr),
    s.work = .record bs :: rest → s.workWf = true → decodeBytes bs = .ok i →
    step s = exec i { s with work := rest }

/-- A placed record is the next thing the machine runs (log 10): the record of any call, in the numbering of the
opcode table. -/
def Obligations.PlacedRecordRunsNext : Prop :=
  ∀ (i : Instr) (s : State), decodeTableWord 136 (encode i).toNat = some i ∧
    step (s.withFetchWord 136 (encode i).toNat) = exec i { s with work := [] }

/-- A step performs the program line at the head of well-formed work (R37): both sources resolve, a literal to
itself and `rJ.hi`, `rJ.lo` to words of slot `J`, and the step is the call of the line's operation on them. The
line's slot is the next one. -/
def Obligations.StepRunsTheResolvedLine : Prop :=
  ∀ (s : State) (l : Line) (rest : List HostItem), s.work = .line l :: rest → s.workWf = true →
    ∃ a b, l.x.resolve s.slots = some a ∧ l.y.resolve s.slots = some b ∧
      step s = exec (Instr.ofUnit l.op a b) { s with work := rest } ∧
      ∃ t, step s = .next t ∧ t.slots[l.slot]? = some (exactProduct a b)

/-- The value of each form of source (R37): a literal stands for itself whatever slots are assigned, none included;
`rK.hi` and `rK.lo` are the words of slot `K`. -/
def Obligations.SourcesResolve : Prop :=
  ∀ slots : List Response, (∀ v : Word, (Src.lit v.toNat).resolve slots = some v) ∧
    ∀ (k : Nat) (r : Response), slots[k]? = some r →
      (Src.hi k).resolve slots = some r.hi ∧ (Src.lo k).resolve slots = some r.lo

/-- The set of exceptions is empty (R80): a call has one outcome only, a next state, for any operands in any state,
and no step of the machine ends in a fault. -/
def Obligations.NothingRaisesAFault : Prop :=
  (∀ (i : Instr) (s : State), ∃ t, exec i s = .next t) ∧ ∀ (s : State) (f : Fault), step s ≠ .fault f

/-! ### The three operations -/

/-- `MULA` (R50): from the record with unit code 0 it completes for all operands with the 128-bit product's halves,
which are also what `A.hi` and `A.lo` show when `A.a` = a and `A.b` = b have settled; the corner cases of the rule,
and that both carry bits can be 1 in one call. -/
def Obligations.MulaDeliversTheProduct : Prop :=
  ((nodesA 0x1FFFFFFFF 0x1FFFFFFFF).c1 = 1 ∧ (nodesA 0x1FFFFFFFF 0x1FFFFFFFF).c2 = 1) ∧
  ∀ (a b : Word) (s : State), decode ((0 : BitVec 2) ++ a ++ b) = .ok (.mula a b) ∧
    ∃ t r, exec (.mula a b) s = .next t ∧ t.slots = s.slots ++ [r] ∧
      (∀ g : PortGroup, g.a = some a → g.b = some b → g.settle = .settled → outputWords .A g = some r) ∧
      t.block = s.block ∧
      r.hi = (a.setWidth 128 * b.setWidth 128).extractLsb' 64 64 ∧
      r.lo = (a.setWidth 128 * b.setWidth 128).extractLsb' 0 64 ∧
      (a = 0 ∨ b = 0 → r = ⟨0, 0⟩) ∧ (b = 1 → r = ⟨0, a⟩) ∧ (a = 1 → r = ⟨0, b⟩) ∧
      (a = 0xFFFFFFFFFFFFFFFF → b = 0xFFFFFFFFFFFFFFFF → r = ⟨0xFFFFFFFFFFFFFFFE, 1⟩)

/-- `MULB` (R60): the same contract from the record with unit code 1, on the ports of unit B; none of the three
64-bit sums its corner cases name wraps, within the bounds given there. -/
def Obligations.MulbDeliversTheProduct : Prop :=
  ∀ (a b : Word) (s : State), decode ((1 : BitVec 2) ++ a ++ b) = .ok (.mulb a b) ∧
    (nodesB a b).q10.toNat + (nodesB a b).k0.toNat ≤ 2 ^ 64 - 2 ^ 32 - 1 ∧
    (nodesB a b).q01.toNat + (nodesB a b).w1.toNat ≤ 2 ^ 64 - 2 ^ 32 ∧
    (nodesB a b).q11.toNat + (nodesB a b).w2.toNat + (nodesB a b).k2.toNat ≤ 2 ^ 64 - 2 ∧
    ∃ t r, exec (.mulb a b) s = .next t ∧ t.slots = s.slots ++ [r] ∧
      (∀ g : PortGroup, g.a = some a → g.b = some b → g.settle = .settled → outputWords .B g = some r) ∧
      t.block = s.block ∧
      r.hi = (a.setWidth 128 * b.setWidth 128).extractLsb' 64 64 ∧
      r.lo = (a.setWidth 128 * b.setWidth 128).extractLsb' 0 64 ∧
      (a = 0 ∨ b = 0 → r = ⟨0, 0⟩) ∧ (b = 1 → r = ⟨0, a⟩) ∧ (a = 1 → r = ⟨0, b⟩) ∧
      (a = 0xFFFFFFFFFFFFFFFF → b = 0xFFFFFFFFFFFFFFFF → r = ⟨0xFFFFFFFFFFFFFFFE, 1⟩)

/-- `MULN` (R70): the same contract from the record with unit code 2, on the ports of unit N, whichever strategy
the block was built with. -/
def Obligations.MulnDeliversTheProduct : Prop :=
  ∀ (a b : Word) (s : State), decode ((2 : BitVec 2) ++ a ++ b) = .ok (.muln a b) ∧
    ∃ t r, exec (.muln a b) s = .next t ∧ t.slots = s.slots ++ [r] ∧
      (∀ g : PortGroup, g.a = some a → g.b = some b → g.settle = .settled → outputWords .N g = some r) ∧
      t.block = s.block ∧
      r.hi = (a.setWidth 128 * b.setWidth 128).extractLsb' 64 64 ∧
      r.lo = (a.setWidth 128 * b.setWidth 128).extractLsb' 0 64 ∧
      (a = 0 ∨ b = 0 → r = ⟨0, 0⟩) ∧ (b = 1 → r = ⟨0, a⟩) ∧ (a = 1 → r = ⟨0, b⟩) ∧
      (a = 0xFFFFFFFFFFFFFFFF → b = 0xFFFFFFFFFFFFFFFF → r = ⟨0xFFFFFFFFFFFFFFFE, 1⟩)

/-- The frame of a call, the same for `MULA`, `MULB` and `MULN` (R2, R10, R48; that the call leaves its own inputs
driven is the model's choice, log 2): when it completes, and it does, it
has added one response to the slots and driven its own unit's inputs, and changed nothing else: not the block, not
the ports of another unit, not what the host still has to do, has reported, has read or has drawn. -/
def Obligations.CallChangesOnlyItsSlotAndItsOwnPorts : Prop :=
  ∀ (i : Instr) (s : State), ∃ t r, exec i s = .next t ∧ t.slots = s.slots ++ [r] ∧
    (∀ u, u ≠ i.unit → t.ports.group u = s.ports.group u) ∧
    (t.ports.group i.unit).a = some i.opA ∧ (t.ports.group i.unit).b = some i.opB ∧
    t.block = s.block ∧ t.work = s.work ∧ t.reports = s.reports ∧ t.readings = s.readings ∧
    t.words = s.words ∧ t.draws = s.draws

/-! ### The contract -/

/-- Totality (R40): every operation on every operand pair, in every state, completes with one result pair. -/
def Obligations.EveryCallCompletesWithOnePair : Prop :=
  ∀ (u : UnitId) (a b : Word) (s : State), ∃ t r, exec (Instr.ofUnit u a b) s = .next t ∧ t.slots = s.slots ++ [r]

/-- Exactness (R41): for every operand pair and every unit, `hi·2^64 + lo = a·b` over the integers, with
`hi = P[127:64]`, `lo = P[63:0]` of the exact 128-bit product `P`. -/
def Obligations.EveryCallIsExact : Prop :=
  ∀ (u : UnitId) (a b : Word) (s : State), ∃ t r, exec (Instr.ofUnit u a b) s = .next t ∧
    t.slots = s.slots ++ [r] ∧ r.hi.toNat * 2 ^ 64 + r.lo.toNat = a.toNat * b.toNat ∧
    ∃ P : BitVec 128, P.toNat = a.toNat * b.toNat ∧ r.hi = P.extractLsb' 64 64 ∧ r.lo = P.extractLsb' 0 64

/-- The result is unique (R42, which the spec marks as its own derivation from R41): `hi = floor(a·b / 2^64)` and
`lo = (a·b) mod 2^64`, and no second pair satisfies the contract. -/
def Obligations.ContractFixesEveryResultBit : Prop :=
  ∀ (u : UnitId) (a b : Word) (s : State), ∃ t r, exec (Instr.ofUnit u a b) s = .next t ∧
    t.slots = s.slots ++ [r] ∧ r.hi.toNat = a.toNat * b.toNat / 2 ^ 64 ∧ r.lo.toNat = a.toNat * b.toNat % 2 ^ 64 ∧
    ∀ h l : Word, h.toNat * 2 ^ 64 + l.toNat = a.toNat * b.toNat → r = ⟨h, l⟩

/-- Range (R44, whose bound on `hi` the spec marks as derived): no carry out of bit 127; the largest `hi` is
`2^64 - 2`, reached only by both operands all ones, where `lo = 1`; `hi` is never all ones; and the identity of the
rule. -/
def Obligations.HighWordNeverReachesAllOnes : Prop :=
  ((2 ^ 64 - 1) ^ 2 = 2 ^ 128 - 2 ^ 65 + 1) ∧
  ∀ (u : UnitId) (a b : Word) (s : State), a.toNat * b.toNat ≤ (2 ^ 64 - 1) ^ 2 ∧ a.toNat * b.toNat < 2 ^ 128 ∧
    ∃ t r, exec (Instr.ofUnit u a b) s = .next t ∧ t.slots = s.slots ++ [r] ∧
      r.hi ≠ 0xFFFFFFFFFFFFFFFF ∧ r.hi.toNat ≤ 2 ^ 64 - 2 ∧
      (r.hi = 0xFFFFFFFFFFFFFFFE ↔ a = 0xFFFFFFFFFFFFFFFF ∧ b = 0xFFFFFFFFFFFFFFFF) ∧
      (a = 0xFFFFFFFFFFFFFFFF ∧ b = 0xFFFFFFFFFFFFFFFF → r.lo = 1)

/-- Commutativity (R45): on every unit, exchanging the operands gives the same pair. -/
def Obligations.CallsAreCommutative : Prop :=
  ∀ (u : UnitId) (a b : Word) (s : State), ∃ t t', exec (Instr.ofUnit u a b) s = .next t ∧
    exec (Instr.ofUnit u b a) s = .next t' ∧ t.slots = t'.slots

/-- The zero and identity laws (R46), in both argument positions, on every unit. -/
def Obligations.ZeroAndIdentityLaws : Prop :=
  ∀ (u : UnitId) (a : Word) (s : State), ∃ t0 t1 t2 t3,
    exec (Instr.ofUnit u a 0) s = .next t0 ∧ t0.slots = s.slots ++ [⟨0, 0⟩] ∧
    exec (Instr.ofUnit u a 1) s = .next t1 ∧ t1.slots = s.slots ++ [⟨0, a⟩] ∧
    exec (Instr.ofUnit u 0 a) s = .next t2 ∧ t2.slots = s.slots ++ [⟨0, 0⟩] ∧
    exec (Instr.ofUnit u 1 a) s = .next t3 ∧ t3.slots = s.slots ++ [⟨0, a⟩]

/-- Cross-variant equality (R47): `MULA`, `MULB` and `MULN` agree bit for bit on every operand pair. -/
def Obligations.ThreeVariantsAgree : Prop :=
  ∀ (a b : Word) (s : State), ∃ tA tB tN, exec (.mula a b) s = .next tA ∧ exec (.mulb a b) s = .next tB ∧
    exec (.muln a b) s = .next tN ∧ tA.slots = tB.slots ∧ tB.slots = tN.slots

/-- A call stores its unit's result, and the result is a function of unit and operands only (R16, R18, R48): from
any two states the same response is added. -/
def Obligations.ResultDependsOnUnitAndOperandsOnly : Prop :=
  ∀ (u : UnitId) (a b : Word), ∃ r, unitResult u a b = r ∧ ∀ s : State,
    ∃ t, exec (Instr.ofUnit u a b) s = .next t ∧ t.slots = s.slots ++ [r]

/-- The laws of R49, which the spec marks as derived from R41, R42 and R44, for the result of every unit: small
operands, powers of two, the all-ones operand, parity, the square of `2^63`, the limb expansion, monotonicity, and
the bound on the upper word. -/
def Obligations.ArithmeticLawsOfTheProduct : Prop :=
  ∀ (u : UnitId) (a b : Word),
    (a.toNat < 2 ^ 32 → b.toNat < 2 ^ 32 →
      (unitResult u a b).hi = 0 ∧ (unitResult u a b).lo.toNat = a.toNat * b.toNat) ∧
    ((unitResult u a b).hi = 0 ↔ a.toNat * b.toNat < 2 ^ 64) ∧
    (∀ k ≤ 63, (unitResult u a (BitVec.ofNat 64 (2 ^ k))).lo = a <<< k ∧
      (unitResult u a (BitVec.ofNat 64 (2 ^ k))).hi = if k = 0 then 0 else a >>> (64 - k)) ∧
    (1 ≤ a.toNat → (unitResult u a 0xFFFFFFFFFFFFFFFF).hi.toNat = a.toNat - 1 ∧
      (unitResult u a 0xFFFFFFFFFFFFFFFF).lo.toNat = 2 ^ 64 - a.toNat) ∧
    (a = 0 → unitResult u a 0xFFFFFFFFFFFFFFFF = ⟨0, 0⟩) ∧
    ((unitResult u a b).lo.getLsbD 0 = (a.getLsbD 0 && b.getLsbD 0)) ∧
    (unitResult u 0x8000000000000000 0x8000000000000000 = ⟨0x4000000000000000, 0⟩) ∧
    (a.toNat * b.toNat = (mulLimb (loLimb a) (loLimb b)).toNat +
        ((mulLimb (loLimb a) (hiLimb b)).toNat + (mulLimb (hiLimb a) (loLimb b)).toNat) * 2 ^ 32 +
        (mulLimb (hiLimb a) (hiLimb b)).toNat * 2 ^ 64 ∧
      ∀ x y : Limb, (mulLimb x y).toNat = x.toNat * y.toNat ∧ (mulLimb x y).toNat ≤ 2 ^ 64 - 2 ^ 33 + 1) ∧
    (∀ a' b' : Word, a.toNat ≤ a'.toNat → b.toNat ≤ b'.toNat →
      (unitResult u a b).value ≤ (unitResult u a' b').value) ∧
    (1 ≤ a.toNat → 1 ≤ b.toNat → (unitResult u a b).hi.toNat ≤ min a.toNat b.toNat - 1 ∧
      (unitResult u a b).hi.toNat < a.toNat ∧ (unitResult u a b).hi.toNat < b.toNat)

/-- Calls need no order (R27): two calls on any units, in either order, complete, and each adds the exact product
of its own operands whatever the other is. -/
def Obligations.CallsDoNotOrderOneAnother : Prop :=
  ∀ (i j : Instr) (s : State), ∃ t1 t2 t1' t2',
    exec i s = .next t1 ∧ exec j t1 = .next t2 ∧ exec j s = .next t1' ∧ exec i t1' = .next t2' ∧
    t2.slots = s.slots ++ [exactProduct i.opA i.opB, exactProduct j.opA j.opB] ∧
    t2'.slots = s.slots ++ [exactProduct j.opA j.opB, exactProduct i.opA i.opB]

/-! ### The datapaths (reference structures of the spec, log 7; their results are in the statements above) -/

/-- The accumulation of MULA (R53, R54, R56): each 65-bit sum splits into its word and its carry-out with nothing
lost, both sums keep the low 32 bits, and the high word's additions do not wrap. -/
def Obligations.MulaCarryChainLosesNothing : Prop :=
  ∀ a b : Word,
    (nodesA a b).p00.toNat + (nodesA a b).x01.toNat = (nodesA a b).t1.toNat + (nodesA a b).c1.toNat * 2 ^ 64 ∧
    (nodesA a b).t1.toNat + (nodesA a b).x10.toNat = (nodesA a b).lo.toNat + (nodesA a b).c2.toNat * 2 ^ 64 ∧
    loLimb (nodesA a b).lo = loLimb (nodesA a b).p00 ∧
    (nodesA a b).hi.toNat = (nodesA a b).p11.toNat + (nodesA a b).u01.toNat + (nodesA a b).u10.toNat +
      (nodesA a b).c1.toNat + (nodesA a b).c2.toNat

/-- The bounds of MULA's nodes that R55 gives beside those of their widths. -/
def Obligations.MulaNodesStayWithinTheirBounds : Prop :=
  ∀ a b : Word,
    (nodesA a b).p00.toNat ≤ 2 ^ 64 - 2 ^ 33 + 1 ∧ (nodesA a b).p01.toNat ≤ 2 ^ 64 - 2 ^ 33 + 1 ∧
    (nodesA a b).p10.toNat ≤ 2 ^ 64 - 2 ^ 33 + 1 ∧ (nodesA a b).p11.toNat ≤ 2 ^ 64 - 2 ^ 33 + 1 ∧
    (nodesA a b).x01.toNat ≤ 2 ^ 64 - 2 ^ 32 ∧ (nodesA a b).x10.toNat ≤ 2 ^ 64 - 2 ^ 32 ∧
    (nodesA a b).s1.toNat ≤ 2 ^ 65 - 2 ^ 33 - 2 ^ 32 + 1 ∧ (nodesA a b).s2.toNat ≤ 2 ^ 65 - 2 ^ 32 - 1 ∧
    (nodesA a b).u01.toNat ≤ 2 ^ 32 - 2 ∧ (nodesA a b).u10.toNat ≤ 2 ^ 32 - 2 ∧
    (nodesA a b).hi.toNat ≤ 2 ^ 64 - 2

/-- Exchanged operands (R58, which the spec marks as derived from R52 to R54): the cross terms exchange their roles;
`c1 + c2`, `lo` and `hi` do not change, though `t1` may, as in the rule's example. -/
def Obligations.MulaNodesExchangeTheirRoles : Prop :=
  ((nodesA 0x123456789ABCDEF0 0x0FEDCBA987654321).t1 = 0xB17E4B17E5618CF0 ∧
    (nodesA 0x0FEDCBA987654321 0x123456789ABCDEF0).t1 = 0xC28F5C1FE5618CF0) ∧
  ∀ a b : Word, mulA b a = mulA a b ∧
    (nodesA b a).p01 = (nodesA a b).p10 ∧ (nodesA b a).p10 = (nodesA a b).p01 ∧
    (nodesA b a).x01 = (nodesA a b).x10 ∧ (nodesA b a).x10 = (nodesA a b).x01 ∧
    (nodesA b a).u01 = (nodesA a b).u10 ∧ (nodesA b a).u10 = (nodesA a b).u01 ∧
    (nodesA b a).c1.toNat + (nodesA b a).c2.toNat = (nodesA a b).c1.toNat + (nodesA a b).c2.toNat ∧
    (nodesA b a).lo = (nodesA a b).lo ∧ (nodesA b a).hi = (nodesA a b).hi

/-- The columns of MULB (R62 to R66): no 64-bit addition wraps, within the bounds of R65, and each column's sum is
its word and its carry word. -/
def Obligations.MulbColumnsNeverWrap : Prop :=
  ∀ a b : Word,
    (nodesB a b).t0.toNat = (nodesB a b).w0.toNat + (nodesB a b).k0.toNat * 2 ^ 32 ∧
    (nodesB a b).t1.toNat = (nodesB a b).q10.toNat + (nodesB a b).k0.toNat ∧
    (nodesB a b).t1.toNat = (nodesB a b).w1.toNat + (nodesB a b).w2.toNat * 2 ^ 32 ∧
    (nodesB a b).t2.toNat = (nodesB a b).q01.toNat + (nodesB a b).w1.toNat ∧
    (nodesB a b).t2.toNat = (nodesB a b).v1.toNat + (nodesB a b).k2.toNat * 2 ^ 32 ∧
    (nodesB a b).lo.toNat = (nodesB a b).v1.toNat * 2 ^ 32 + (nodesB a b).w0.toNat ∧
    (nodesB a b).hi.toNat = (nodesB a b).q11.toNat + (nodesB a b).w2.toNat + (nodesB a b).k2.toNat ∧
    (nodesB a b).k0.toNat ≤ 2 ^ 32 - 2 ∧ (nodesB a b).w2.toNat ≤ 2 ^ 32 - 2 ∧
    (nodesB a b).t1.toNat ≤ 2 ^ 64 - 2 ^ 32 - 1 ∧ (nodesB a b).t2.toNat ≤ 2 ^ 64 - 2 ^ 32 ∧
    (nodesB a b).hi.toNat ≤ 2 ^ 64 - 2

/-- The strategy of MULN is not observable (R73): both give the same pair for every operand pair, and a `MULN` call
is what it would be on either. -/
def Obligations.MulnStrategyIsInvisible : Prop :=
  ∀ (wide : Bool) (a b : Word) (s : State), mulN true a b = mulN false a b ∧
    exec (.muln a b) s = .next (s.completeCall .N a b (mulN wide a b))

/-! ### Invariants -/

/-- Every step keeps the invariant: every slot holds the exact product of some operand pair, settled inputs are
driven, settled words read with the same inputs are words of one product, and every pair noted at the ports is the
exact product of one operand pair or a free pair, never the `hi` of one product with the `lo` of another (R16, R24,
R41, R94, U3). That the host notes words and pairs them is log 16. -/
def Obligations.StepKeepsSlotsExactAndPortsConsistent : Prop :=
  ∀ s t : State, Sound s → step s = .next t → Sound t

/-- The invariant holds at reset. -/
def Obligations.ResetMeetsTheInvariant : Prop := Sound State.reset

/-- Under the invariant no slot ever holds an all-ones `hi` (R44), and a slot, once written, keeps its value at
every step (R37: each slot is assigned exactly once). -/
def Obligations.SlotsAreWrittenOnceAndBounded : Prop :=
  ∀ s t : State, Sound s → step s = .next t →
    (∀ r ∈ t.slots, r.hi ≠ 0xFFFFFFFFFFFFFFFF) ∧
    ∀ (k : Nat) (r : Response), s.slots[k]? = some r → t.slots[k]? = some r

/-- Well-formed work stays well formed: a program that passed the check before its first line is never found ill
formed later (R37; log 12). -/
def Obligations.StepKeepsWorkWellFormed : Prop :=
  ∀ s t : State, step s = .next t → t.workWf = true

/-- One step on a line or on an XCHK check at the head of well-formed work completes (R37, R40). That the check is a
step of its own is the model's choice (log 13). -/
def Obligations.LineOrCheckOfWellFormedWorkCompletes : Prop :=
  ∀ (s : State) (it : HostItem) (rest : List HostItem), s.work = it :: rest → s.workWf = true →
    ((∃ l, it = .line l) ∨ ∃ k x y, it = .check k x y) →
    ∃ t, step s = .next t ∧ t.work = rest ∧ t.readings = s.readings ∧ t.words = s.words ∧ t.draws = s.draws

/-! ### Test programs -/

/-- The run of a test program (R37, R38, R98): placed and run from any state, a well-formed program takes as many
steps as its expansion has items (one call a line, three calls and a check an XCHK), every one completes, its end
state is the slot list that the left-to-right fold of its lines over the exact product gives, and no XCHK reports a
divergence (R47, R82). The check as a step of its own is log 13, and that the step after the end is refused, nothing
being left to do, is log 9: both the model's choices. -/
def Obligations.ProgramRunIsTheFoldOfItsLines : Prop :=
  ∀ (p : List ProgLine) (s : State), programWf p = true →
    ∃ (t : State) (slots : List Response),
      Host.Core.run Sys2Proof.core (expand p).length (s.load p) = .next t ∧
      evalProgram [] p = some slots ∧ t.slots = slots ∧ t.work = [] ∧ t.reports = s.reports ∧
      t.readings = s.readings ∧ t.words = s.words ∧ t.block = s.block ∧ step t = .refused .noCallPresented ∧
      ∀ k ≤ (expand p).length, SafeRun k (s.load p)

/-- An ill-formed program is refused as a whole, at its first step, before any call is made (R37, U7). -/
def Obligations.IllFormedProgramIsRefusedBeforeAnyCall : Prop :=
  ∀ (p : List ProgLine) (s : State), programWf p = false → step (s.load p) = .refused .illFormedProgram

/-- The host check of an XCHK (R38, R82): it passes without a trace when the three pairs are equal; otherwise it
reports the operand pair and which of `hi`, `lo` diverged; nothing else changes. What it writes as a report is
log 13. -/
def Obligations.CrossCheckReportsWhatDiverged : Prop :=
  ∀ (s : State) (k : Nat) (x y : Src) (a b : Word) (ra rb rn : Response),
    s.slots[k]? = some ra → s.slots[k + 1]? = some rb → s.slots[k + 2]? = some rn →
    x.resolve s.slots = some a → y.resolve s.slots = some b →
    (ra = rb ∧ rb = rn → perform (.check k x y) s = .next s) ∧
    (¬(ra = rb ∧ rb = rn) → ∃ d, perform (.check k x y) s = .next { s with reports := s.reports ++ [d] } ∧
      d.a = a ∧ d.b = b ∧ (d.hiDiffers = true ↔ ¬(ra.hi = rb.hi ∧ rb.hi = rn.hi)) ∧
      (d.loDiffers = true ↔ ¬(ra.lo = rb.lo ∧ rb.lo = rn.lo)) ∧ (d.hiDiffers = true ∨ d.loDiffers = true))

/-! ### The port level -/

/-- A port-level call is the call (R16, R94, R98): the host drives both inputs of a unit, holds them for at least
`T_PD`, and reads both outputs. Four steps of the machine, from any state, note exactly the pair that the operation
of that unit stores when called, and leave the inputs of that unit driven. -/
def Obligations.PortLevelCallReadsTheCallsResult : Prop :=
  ∀ (s : State) (u : UnitId) (a b : Word) (n : Nat) (rest : List HostItem),
    s.work = .driveA u a :: .driveB u b :: .wait n :: .readBoth u :: rest → s.workWf = true → Config.tPD u ≤ n →
    ∃ t t' r, Host.Core.run Sys2Proof.core 4 s = .next t ∧ exec (Instr.ofUnit u a b) s = .next t' ∧
      t'.slots = s.slots ++ [r] ∧ t.readings = s.readings ++ [r] ∧ r = exactProduct a b ∧
      t.work = rest ∧ t.slots = s.slots ∧ t.reports = s.reports ∧ t.words = s.words ∧ t.draws = s.draws ∧
      t.block = s.block ∧
      (t.ports.group u).a = some a ∧ (t.ports.group u).b = some b ∧
      outputWords u (t.ports.group u) = some r

/-- The three units can be used at once (R31, R87): driven together and read after the longest bound, each gives
the exact product of its own operands. -/
def Obligations.ThreeUnitsSettleTogether : Prop :=
  ∀ (s : State) (a b c d e f : Word) (n : Nat), (∀ u, Config.tPD u ≤ n) →
    let t := (((((((s.driveA .A a).driveA .B c).driveA .N e).driveB .A b).driveB .B d).driveB .N f).wait n)
    outputWords .A (t.ports.group .A) = some (exactProduct a b) ∧
    outputWords .B (t.ports.group .B) = some (exactProduct c d) ∧
    outputWords .N (t.ports.group .N) = some (exactProduct e f)

/-- Reading early (R94, U3): the pair noted is the free one, whatever it is, and only the reading and the model's
own counter change (log 5). Driving another level on either input starts the settling time again, settled or not,
so that a reading before `T_PD` has passed is early; driving the level an input has changes nothing (log 18). -/
def Obligations.EarlyReadingIsAFreeValue : Prop :=
  (∀ (s : State) (u : UnitId) (a b : Word) (e n : Nat),
    (s.ports.group u).a = some a → (s.ports.group u).b = some b → (s.ports.group u).settle = .moving e →
    e + n < Config.tPD u →
    perform (.readBoth u) (s.wait n) = .next { s.wait n with
      readings := s.readings ++ [⟨Config.freeHi s.draws, Config.freeLo s.draws⟩], draws := s.draws + 1 }) ∧
  ∀ (s : State) (u : UnitId) (v : Word) (n : Nat),
    ((s.ports.group u).a = some v → (s.driveA u v).ports.group u = s.ports.group u) ∧
    ((s.ports.group u).b = some v → (s.driveB u v).ports.group u = s.ports.group u) ∧
    ((s.ports.group u).a ≠ some v → ((s.driveA u v).ports.group u).settle = .moving 0 ∧
      ((s.ports.group u).b.isSome = true → n < Config.tPD u →
        ∃ t, perform (.readBoth u) ((s.driveA u v).wait n) = .next t ∧
          t.readings = s.readings ++ [⟨Config.freeHi s.draws, Config.freeLo s.draws⟩])) ∧
    ((s.ports.group u).b ≠ some v → ((s.driveB u v).ports.group u).settle = .moving 0 ∧
      ((s.ports.group u).a.isSome = true → n < Config.tPD u →
        ∃ t, perform (.readBoth u) ((s.driveB u v).wait n) = .next t ∧
          t.readings = s.readings ++ [⟨Config.freeHi s.draws, Config.freeLo s.draws⟩]))

/-- Nothing may be read of a unit whose inputs are not both driven (R91, U5): reading either way is refused. -/
def Obligations.UndrivenUnitCannotBeRead : Prop :=
  ∀ (s : State) (u : UnitId) (port : OutPort), (s.ports.group u).a = none ∨ (s.ports.group u).b = none →
    perform (.readBoth u) s = .refused (.inputsUndriven u) ∧
    perform (.readOne u port) s = .refused (.inputsUndriven u)

/-- Reading the two words one after the other, inputs unchanged (R24, R94): the pair is that of the inputs' product,
whatever was read before and with any time between. That the words may be read in either order, and are noted when
read and taken as a pair when the host says so, is log 16, the model's reading of R94. -/
def Obligations.SeparateReadingsOfHeldInputsMakeThePair : Prop :=
  ∀ (s : State) (u : UnitId) (a b : Word) (first second : OutPort) (n m : Nat), first ≠ second →
    (s.ports.group u).a = some a → (s.ports.group u).b = some b → (s.ports.group u).settle = .settled →
    ∃ t1 t2 t3, perform (.readOne u first) s = .next t1 ∧ perform (.readOne u second) (t1.wait n) = .next t2 ∧
      perform (.takePair u) (t2.wait m) = .next t3 ∧
      t1.readings = s.readings ∧ t2.readings = s.readings ∧ t3.readings = s.readings ++ [exactProduct a b] ∧
      t3.slots = s.slots ∧ t3.draws = s.draws ∧
      (t3.ports.group u).a = some a ∧ (t3.ports.group u).b = some b ∧ (t3.ports.group u).settle = .settled

/-- An input changed between the two readings, `U.a` or `U.b`, or changed and driven back (R94, U3): the pair is the
free one, however long the host waits after the change. The pairing is log 16. -/
def Obligations.InputChangeBetweenReadingsFreesThePair : Prop :=
  ∀ (s : State) (u : UnitId) (a b v w : Word) (first second : OutPort) (n : Nat),
    first ≠ second → v ≠ a → w ≠ b →
    (s.ports.group u).a = some a → (s.ports.group u).b = some b → (s.ports.group u).settle = .settled →
    ∃ t1, perform (.readOne u first) s = .next t1 ∧
      ∀ c ∈ [t1.driveA u v, t1.driveB u w, (t1.driveA u v).driveA u a, (t1.driveB u w).driveB u b],
        ∃ t2 t3, perform (.readOne u second) (c.wait n) = .next t2 ∧ perform (.takePair u) t2 = .next t3 ∧
          t3.readings = s.readings ++ [⟨Config.freeHi s.draws, Config.freeLo s.draws⟩] ∧
          t3.draws = s.draws + 1 ∧ t3.slots = s.slots

/-- The settling bound is positive (R6) and does not depend on the operands (R95): whether a group has settled after
a wait is the same for all operand values, and it has exactly when the bound is reached (R94). Time in whole ticks
is log 4. -/
def Obligations.SettlingTimeIgnoresOperands : Prop :=
  ∀ (u : UnitId) (n e : Nat) (a b a' b' : Word) (c c' : Nat), 0 < Config.tPD u ∧
    (PortGroup.elapse u n ⟨some a, some b, .moving e, c⟩).settle =
      (PortGroup.elapse u n ⟨some a', some b', .moving e, c'⟩).settle ∧
    ((PortGroup.elapse u n ⟨some a, some b, .moving e, c⟩).settle = .settled ↔ Config.tPD u ≤ e + n)

/-- The frame of the port actions (R2, R16, R25): driving one input touches that unit's ports only and leaves its
other input; waiting changes no input; none of them writes a slot, a reading or a report. Reading, of both words or
of one, settled or early, and taking a pair leave every port of every unit as it was, and the slots, the reports and
the work; reading one word leaves the pairs noted, and reading both leaves the words noted. Readings of a driven unit
and the taking of a pair complete. That reading one word notes exactly one word, and that taking a pair is an action
of its own which always completes and adds one pair, is the model's choice (log 16). -/
def Obligations.PortActionsTouchTheirOwnInputs : Prop :=
  (∀ (s : State) (u : UnitId) (v : Word) (n : Nat), ∃ tA tB tW,
    perform (.driveA u v) s = .next tA ∧ perform (.driveB u v) s = .next tB ∧ perform (.wait n) s = .next tW ∧
    (tA.ports.group u).a = some v ∧ (tA.ports.group u).b = (s.ports.group u).b ∧
    (tB.ports.group u).b = some v ∧ (tB.ports.group u).a = (s.ports.group u).a ∧
    (∀ w, w ≠ u → tA.ports.group w = s.ports.group w ∧ tB.ports.group w = s.ports.group w) ∧
    (∀ w, (tW.ports.group w).a = (s.ports.group w).a ∧ (tW.ports.group w).b = (s.ports.group w).b) ∧
    (∀ t ∈ [tA, tB, tW], t.slots = s.slots ∧ t.reports = s.reports ∧ t.readings = s.readings ∧
      t.words = s.words ∧ t.draws = s.draws ∧ t.work = s.work ∧ t.block = s.block)) ∧
  ∀ (s : State) (u : UnitId) (port : OutPort),
    ((s.ports.group u).driven = true → ∃ tR tO,
      perform (.readBoth u) s = .next tR ∧ perform (.readOne u port) s = .next tO) ∧
    (∃ tP, perform (.takePair u) s = .next tP) ∧
    (∀ it ∈ [HostItem.readBoth u, .readOne u port, .takePair u], ∀ t, perform it s = .next t →
      t.ports = s.ports ∧ t.slots = s.slots ∧ t.reports = s.reports ∧ t.work = s.work ∧ t.block = s.block) ∧
    (∀ t, perform (.readOne u port) s = .next t → t.readings = s.readings ∧ t.draws = s.draws ∧
      ∃ w, t.words = w :: s.words) ∧
    (∀ it ∈ [HostItem.readBoth u, .takePair u], ∀ t, perform it s = .next t → t.words = s.words ∧
      ∃ r, t.readings = s.readings ++ [r])

/-- A whole port-level call whose words are read one at a time (R16, R25, R27, R94): from any state, so whatever was
driven, read, left half read or abandoned before, and with any other reading `extra` made on the way, the pair taken
is the call's result. Order and pairing are log 16. -/
def Obligations.WordByWordCallReadsTheCallsResult : Prop :=
  ∀ (s : State) (u : UnitId) (a b : Word) (n : Nat) (first second extra : OutPort) (rest : List HostItem),
    first ≠ second → Config.tPD u ≤ n → s.workWf = true →
    s.work = .driveA u a :: .driveB u b :: .readOne u extra :: .wait n :: .readOne u first :: .readOne u second ::
      .takePair u :: rest →
    ∃ t t' r, Host.Core.run Sys2Proof.core 7 s = .next t ∧ exec (Instr.ofUnit u a b) s = .next t' ∧
      t'.slots = s.slots ++ [r] ∧ t.readings = s.readings ++ [r] ∧ r = exactProduct a b ∧
      t.work = rest ∧ t.slots = s.slots ∧ t.reports = s.reports ∧ t.draws = s.draws

/-- A word read early makes the pair free (R94, U3), whichever of the two it is and however long the host waits
before reading the other; the same port read again once settled makes it the result after all (R25). The pairing is
log 16. -/
def Obligations.EarlyWordFreesThePairUntilReadAgain : Prop :=
  ∀ (s : State) (u : UnitId) (a b : Word) (first second : OutPort) (e n : Nat), first ≠ second →
    (s.ports.group u).a = some a → (s.ports.group u).b = some b → (s.ports.group u).settle = .moving e →
    Config.tPD u ≤ e + n →
    ∃ t1 t2 t3 t4 t5, perform (.readOne u first) s = .next t1 ∧
      perform (.readOne u second) (t1.wait n) = .next t2 ∧ perform (.takePair u) t2 = .next t3 ∧
      t3.readings = s.readings ++ [⟨Config.freeHi s.draws, Config.freeLo s.draws⟩] ∧
      perform (.readOne u first) t2 = .next t4 ∧ perform (.takePair u) t4 = .next t5 ∧
      t5.readings = s.readings ++ [exactProduct a b]
end

