-- ==== Sys2Proof/Laws/Arith.lean ====
section
/-! SUPPORT. The integer value of every datapath operator: limbs, partial products, sums and carries
(spec/41_mul_a.md R51 to R54, spec/42_mul_b.md R61 to R64). Provers cite these instead of unfolding bit vectors. -/

namespace Sys2Proof.Machine

@[simp] theorem hiLimb_toNat (v : Word) : (hiLimb v).toNat = v.toNat / 2 ^ 32 := by
  have := v.isLt
  simp only [hiLimb, BitVec.extractLsb'_toNat, Nat.shiftRight_eq_div_pow]
  omega

@[simp] theorem loLimb_toNat (v : Word) : (loLimb v).toNat = v.toNat % 2 ^ 32 := by
  simp [loLimb]

@[simp] theorem zext_toNat (x : Limb) : (zext x).toNat = x.toNat := by
  have := x.isLt
  simp only [zext, BitVec.toNat_setWidth]
  omega

/-- A product of two limbs is at most `(2^32 - 1)^2` (R52). -/
theorem limb_mul_le (x y : Limb) : x.toNat * y.toNat ≤ (2 ^ 32 - 1) * (2 ^ 32 - 1) :=
  Nat.mul_le_mul (by have := x.isLt; omega) (by have := y.isLt; omega)

/-- A partial product is exact (R52). -/
@[simp] theorem mulLimb_toNat (x y : Limb) : (mulLimb x y).toNat = x.toNat * y.toNat := by
  have := limb_mul_le x y
  simp only [mulLimb, BitVec.toNat_mul, zext_toNat]
  omega

@[simp] theorem atBit32_toNat (x : Limb) : (atBit32 x).toNat = x.toNat * 2 ^ 32 := by
  have := x.isLt
  simp only [atBit32, BitVec.toNat_shiftLeft, zext_toNat, Nat.shiftLeft_eq]
  omega

@[simp] theorem joinLimbs_toNat (x y : Limb) : (joinLimbs x y).toNat = x.toNat * 2 ^ 32 + y.toNat := by
  have := y.isLt
  simp only [joinLimbs, BitVec.toNat_append]
  rw [← Nat.shiftLeft_add_eq_or_of_lt this, Nat.shiftLeft_eq]

@[simp] theorem sum65_toNat (x y : Word) : (sum65 x y).toNat = x.toNat + y.toNat := by
  have := x.isLt
  have := y.isLt
  simp only [sum65, BitVec.toNat_add, BitVec.toNat_setWidth]
  omega

@[simp] theorem sumWord_toNat (s : BitVec 65) : (sumWord s).toNat = s.toNat % 2 ^ 64 := by
  simp [sumWord]

@[simp] theorem carryOut_toNat (s : BitVec 65) : (carryOut s).toNat = s.toNat / 2 ^ 64 := by
  have := s.isLt
  simp only [carryOut, BitVec.extractLsb'_toNat, Nat.shiftRight_eq_div_pow]
  omega

@[simp] theorem zextCarry_toNat (c : BitVec 1) : (zextCarry c).toNat = c.toNat := by
  have := c.isLt
  simp only [zextCarry, BitVec.toNat_setWidth]
  omega

/-- A sum with its carry: nothing is lost (R53). -/
theorem sum65_split (x y : Word) :
    (sumWord (sum65 x y)).toNat + (carryOut (sum65 x y)).toNat * 2 ^ 64 = x.toNat + y.toNat := by
  simp only [sumWord_toNat, carryOut_toNat, sum65_toNat]
  omega

/-- A word is its two limbs (R34, R51, R61). -/
theorem limbs_split (v : Word) : (hiLimb v).toNat * 2 ^ 32 + (loLimb v).toNat = v.toNat := by
  simp only [hiLimb_toNat, loLimb_toNat]
  omega

/-- The 128-bit product of MULN's wide strategy is exact (R71). -/
@[simp] theorem wideProduct_toNat (a b : Word) : (wideProduct a b).toNat = a.toNat * b.toNat := by
  have ha := a.isLt
  have hb := b.isLt
  have : a.toNat * b.toNat ≤ (2 ^ 64 - 1) * (2 ^ 64 - 1) := Nat.mul_le_mul (by omega) (by omega)
  simp only [wideProduct, BitVec.toNat_mul, BitVec.toNat_setWidth]
  rw [Nat.mod_eq_of_lt (a := a.toNat) (by omega), Nat.mod_eq_of_lt (a := b.toNat) (by omega)]
  omega

end Sys2Proof.Machine
end

