-- ==== Sys2Proof/Laws/Decode.lean ====
section
/-! SUPPORT. Bytes and fields of records (spec/30_encoding.md R32, R33, R39). -/

namespace Sys2Proof

@[simp] theorem bytesOfNat_length (k v : Nat) : (bytesOfNat k v).length = k := by
  induction k generalizing v with
  | zero => rfl
  | succ k ih => simp [bytesOfNat, ih]

/-- `k` bytes are below `256^k`. -/
theorem natOfBytes_lt (bs : List Byte) : natOfBytes bs < 256 ^ bs.length := by
  induction bs with
  | nil => simp [natOfBytes]
  | cons b bs ih =>
    have := b.isLt
    rw [natOfBytes, List.length_cons, Nat.pow_succ]
    omega

/-- The bytes of a number read back as its lowest bytes. -/
theorem natOfBytes_bytesOfNat (k v : Nat) : natOfBytes (bytesOfNat k v) = v % 256 ^ k := by
  induction k generalizing v with
  | zero => simp [bytesOfNat, natOfBytes, Nat.mod_one]
  | succ k ih =>
    have h : 256 ^ (k + 1) = 256 * 256 ^ k := by ring
    rw [bytesOfNat, natOfBytes, ih, BitVec.toNat_ofNat, h, Nat.mod_mul]

/-- Bytes are the bytes of the number they read as. -/
theorem bytesOfNat_natOfBytes (bs : List Byte) : bytesOfNat bs.length (natOfBytes bs) = bs := by
  induction bs with
  | nil => rfl
  | cons b bs ih =>
    have hb := b.isLt
    have h1 : (b.toNat + 256 * natOfBytes bs) / 256 = natOfBytes bs := by omega
    have h2 : BitVec.ofNat 8 (b.toNat + 256 * natOfBytes bs) = b := by
      apply BitVec.eq_of_toNat_eq
      rw [BitVec.toNat_ofNat]
      omega
    rw [List.length_cons, bytesOfNat, natOfBytes, h1, ih, h2]

/-- The record of a call as a number (R32). -/
theorem encode_toNat (i : Instr) :
    (encode i).toNat = i.unit.code.toNat * 2 ^ 128 + i.opA.toNat * 2 ^ 64 + i.opB.toNat := by
  have ha := i.opA.isLt
  have hb := i.opB.isLt
  simp only [encode, BitVec.toNat_append]
  rw [← Nat.shiftLeft_add_eq_or_of_lt hb, ← Nat.shiftLeft_add_eq_or_of_lt ha, Nat.shiftLeft_eq, Nat.shiftLeft_eq]
  omega

@[simp] theorem reqUnit_toNat (w : BitVec 130) : (reqUnit w).toNat = w.toNat / 2 ^ 128 := by
  have := w.isLt
  simp only [reqUnit, BitVec.extractLsb'_toNat, Nat.shiftRight_eq_div_pow]
  omega

@[simp] theorem reqA_toNat (w : BitVec 130) : (reqA w).toNat = w.toNat / 2 ^ 64 % 2 ^ 64 := by
  simp only [reqA, BitVec.extractLsb'_toNat, Nat.shiftRight_eq_div_pow]

@[simp] theorem reqB_toNat (w : BitVec 130) : (reqB w).toNat = w.toNat % 2 ^ 64 := by
  simp [reqB]

@[simp] theorem ofCode_code (u : UnitId) : UnitId.ofCode u.code = some u := by cases u <;> decide

/-- A code that names a unit is that unit's code (R35). -/
theorem code_of_ofCode (c : BitVec 2) (u : UnitId) (h : UnitId.ofCode c = some u) : u.code = c := by
  revert h u
  revert c
  decide

end Sys2Proof
end

