-- ==== Sys2Proof/Laws/Nodes.lean ====
section
/-! SUPPORT. One equation per node of MULA and MULB in terms of the nodes before it (spec/41_mul_a.md R52 to R54,
spec/42_mul_b.md R62 to R64), and the words of each unit's result. Provers rewrite with these and never unfold a
whole datapath. -/

namespace Sys2Proof.Machine

/-! ### MULA -/

theorem nodesA_p00 (a b : Word) : (nodesA a b).p00 = mulLimb (loLimb a) (loLimb b) := rfl
theorem nodesA_p01 (a b : Word) : (nodesA a b).p01 = mulLimb (loLimb a) (hiLimb b) := rfl
theorem nodesA_p10 (a b : Word) : (nodesA a b).p10 = mulLimb (hiLimb a) (loLimb b) := rfl
theorem nodesA_p11 (a b : Word) : (nodesA a b).p11 = mulLimb (hiLimb a) (hiLimb b) := rfl
theorem nodesA_x01 (a b : Word) : (nodesA a b).x01 = atBit32 (loLimb (nodesA a b).p01) := rfl
theorem nodesA_x10 (a b : Word) : (nodesA a b).x10 = atBit32 (loLimb (nodesA a b).p10) := rfl
theorem nodesA_s1 (a b : Word) : (nodesA a b).s1 = sum65 (nodesA a b).p00 (nodesA a b).x01 := rfl
theorem nodesA_t1 (a b : Word) : (nodesA a b).t1 = sumWord (nodesA a b).s1 := rfl
theorem nodesA_c1 (a b : Word) : (nodesA a b).c1 = carryOut (nodesA a b).s1 := rfl
theorem nodesA_s2 (a b : Word) : (nodesA a b).s2 = sum65 (nodesA a b).t1 (nodesA a b).x10 := rfl
theorem nodesA_c2 (a b : Word) : (nodesA a b).c2 = carryOut (nodesA a b).s2 := rfl
theorem nodesA_u01 (a b : Word) : (nodesA a b).u01 = hiLimb (nodesA a b).p01 := rfl
theorem nodesA_u10 (a b : Word) : (nodesA a b).u10 = hiLimb (nodesA a b).p10 := rfl
theorem nodesA_hi (a b : Word) :
    (nodesA a b).hi =
      (nodesA a b).p11 + zext (nodesA a b).u01 + zext (nodesA a b).u10 + zextCarry (nodesA a b).c1 +
      zextCarry (nodesA a b).c2 := rfl
theorem nodesA_lo (a b : Word) : (nodesA a b).lo = sumWord (nodesA a b).s2 := rfl

/-! ### MULB -/

theorem nodesB_t0 (a b : Word) : (nodesB a b).t0 = mulLimb (loLimb a) (loLimb b) := rfl
theorem nodesB_w0 (a b : Word) : (nodesB a b).w0 = loLimb (nodesB a b).t0 := rfl
theorem nodesB_k0 (a b : Word) : (nodesB a b).k0 = hiLimb (nodesB a b).t0 := rfl
theorem nodesB_q10 (a b : Word) : (nodesB a b).q10 = mulLimb (hiLimb a) (loLimb b) := rfl
theorem nodesB_t1 (a b : Word) : (nodesB a b).t1 = (nodesB a b).q10 + zext (nodesB a b).k0 := rfl
theorem nodesB_w1 (a b : Word) : (nodesB a b).w1 = loLimb (nodesB a b).t1 := rfl
theorem nodesB_w2 (a b : Word) : (nodesB a b).w2 = hiLimb (nodesB a b).t1 := rfl
theorem nodesB_q01 (a b : Word) : (nodesB a b).q01 = mulLimb (loLimb a) (hiLimb b) := rfl
theorem nodesB_t2 (a b : Word) : (nodesB a b).t2 = (nodesB a b).q01 + zext (nodesB a b).w1 := rfl
theorem nodesB_v1 (a b : Word) : (nodesB a b).v1 = loLimb (nodesB a b).t2 := rfl
theorem nodesB_k2 (a b : Word) : (nodesB a b).k2 = hiLimb (nodesB a b).t2 := rfl
theorem nodesB_q11 (a b : Word) : (nodesB a b).q11 = mulLimb (hiLimb a) (hiLimb b) := rfl
theorem nodesB_hi (a b : Word) :
    (nodesB a b).hi =
      (nodesB a b).q11 + zext (nodesB a b).w2 + zext (nodesB a b).k2 := rfl
theorem nodesB_lo (a b : Word) : (nodesB a b).lo = joinLimbs (nodesB a b).v1 (nodesB a b).w0 := rfl

/-! ### Results -/

@[simp] theorem mulA_hi (a b : Word) : (mulA a b).hi = (nodesA a b).hi := rfl
@[simp] theorem mulA_lo (a b : Word) : (mulA a b).lo = (nodesA a b).lo := rfl
@[simp] theorem mulB_hi (a b : Word) : (mulB a b).hi = (nodesB a b).hi := rfl
@[simp] theorem mulB_lo (a b : Word) : (mulB a b).lo = (nodesB a b).lo := rfl
@[simp] theorem mulFallback_hi (a b : Word) : (mulFallback a b).hi = (nodesA a b).hi := rfl
@[simp] theorem mulFallback_lo (a b : Word) : (mulFallback a b).lo = (nodesA a b).lo := rfl
@[simp] theorem mulN_true (a b : Word) : mulN true a b = mulWide a b := rfl
@[simp] theorem mulN_false (a b : Word) : mulN false a b = mulFallback a b := rfl

/-- `hi` of the wide strategy as a number (R71). -/
@[simp] theorem mulWide_hi_toNat (a b : Word) : (mulWide a b).hi.toNat = a.toNat * b.toNat / 2 ^ 64 := by
  have h := (wideProduct a b).isLt
  rw [wideProduct_toNat] at h
  rw [mulWide, BitVec.extractLsb'_toNat, wideProduct_toNat, Nat.shiftRight_eq_div_pow]
  omega

/-- `lo` of the wide strategy as a number (R71). -/
@[simp] theorem mulWide_lo_toNat (a b : Word) : (mulWide a b).lo.toNat = a.toNat * b.toNat % 2 ^ 64 := by
  rw [mulWide, BitVec.extractLsb'_toNat, wideProduct_toNat, Nat.shiftRight_eq_div_pow]
  omega

end Sys2Proof.Machine
end

