-- ==== Sys2Proof/Laws/PerInstr.lean ====
section
/-! SUPPORT. Facts about every operation as data, one lemma per operation. The family Fields says where the unit
code and the operands of a call stand in its request record (spec/30_encoding.md R32, R35). -/

namespace Sys2Proof.Laws.Fields

/-- The operation is well formed, and its record holds the unit code in bits [129:128], the first operand in bits
[127:64] and the second in bits [63:0] (R32, R35). -/
def Statement (i : Instr) : Prop :=
  i.wellFormed = true ∧ reqUnit (encode i) = i.unit.code ∧ reqA (encode i) = i.opA ∧ reqB (encode i) = i.opB

/-- The fields of a record read from the number it is (R32). -/
theorem fields_of_record (i : Instr) :
    reqUnit (encode i) = i.unit.code ∧ reqA (encode i) = i.opA ∧ reqB (encode i) = i.opB := by
  have hv := encode_toNat i
  have hu := i.unit.code.isLt
  have ha := i.opA.isLt
  have hb := i.opB.isLt
  refine ⟨?_, ?_, ?_⟩
  · apply BitVec.eq_of_toNat_eq
    rw [reqUnit_toNat]
    omega
  · apply BitVec.eq_of_toNat_eq
    rw [reqA_toNat]
    omega
  · apply BitVec.eq_of_toNat_eq
    rw [reqB_toNat]
    omega

theorem mula (a b : Word) : Statement (.mula a b) := ⟨rfl, fields_of_record _⟩

theorem mulb (a b : Word) : Statement (.mulb a b) := ⟨rfl, fields_of_record _⟩

theorem muln (a b : Word) : Statement (.muln a b) := ⟨rfl, fields_of_record _⟩

end Sys2Proof.Laws.Fields
end

