-- ==== Sys2Proof/Laws/State.lean ====
section
/-! SUPPORT. One lemma per field per update of State, all by rfl, and what replacing one port group does to the
three groups (spec/00_scope.md R2, spec/10_state.md R16). -/

namespace Sys2Proof.Machine

/-! ### Port groups -/

@[simp] theorem group_setGroup_self (p : Ports) (u : UnitId) (g : PortGroup) : (p.setGroup u g).group u = g := by
  cases u <;> rfl

/-- The ports of another unit do not change (R2). -/
theorem group_setGroup_of_ne (p : Ports) (u v : UnitId) (g : PortGroup) (h : v ≠ u) :
    (p.setGroup u g).group v = p.group v := by
  cases u <;> cases v <;> first | rfl | exact absurd rfl h

/-- Time passes at every group with that unit's own bound (R95). -/
@[simp] theorem group_elapse (p : Ports) (n : Nat) (u : UnitId) :
    (p.elapse n).group u = (p.group u).elapse u n := by
  cases u <;> rfl

@[simp] theorem settleNow_a (g : PortGroup) : g.settleNow.a = g.a := rfl
@[simp] theorem settleNow_b (g : PortGroup) : g.settleNow.b = g.b := rfl
@[simp] theorem settleNow_settle (g : PortGroup) : g.settleNow.settle = .settled := rfl
@[simp] theorem settleNow_changes (g : PortGroup) : g.settleNow.changes = g.changes := rfl

@[simp] theorem setInputs_a (g : PortGroup) (a b : Option Word) : (g.setInputs a b).a = a := by
  unfold PortGroup.setInputs
  split
  · exact ‹_ ∧ _›.1
  · rfl

@[simp] theorem setInputs_b (g : PortGroup) (a b : Option Word) : (g.setInputs a b).b = b := by
  unfold PortGroup.setInputs
  split
  · exact ‹_ ∧ _›.2
  · rfl

/-- Levels that an input already has change nothing (R94). -/
theorem setInputs_same (g : PortGroup) : g.setInputs g.a g.b = g := by
  simp [PortGroup.setInputs]

/-- A change of an input starts the settling time again and is counted (R94, U3). -/
theorem setInputs_changed (g : PortGroup) (a b : Option Word) (h : ¬(g.a = a ∧ g.b = b)) :
    g.setInputs a b = ⟨a, b, .moving 0, g.changes + 1⟩ := by
  unfold PortGroup.setInputs
  rw [if_neg h]

@[simp] theorem elapse_a (g : PortGroup) (u : UnitId) (n : Nat) : (g.elapse u n).a = g.a := by
  unfold PortGroup.elapse
  split
  · split <;> rfl
  · rfl

@[simp] theorem elapse_b (g : PortGroup) (u : UnitId) (n : Nat) : (g.elapse u n).b = g.b := by
  unfold PortGroup.elapse
  split
  · split <;> rfl
  · rfl

@[simp] theorem elapse_changes (g : PortGroup) (u : UnitId) (n : Nat) : (g.elapse u n).changes = g.changes := by
  unfold PortGroup.elapse
  split
  · split <;> rfl
  · rfl

/-! ### Fields of State -/

@[simp] theorem setGroup_block (s : State) (u : UnitId) (g : PortGroup) : (s.setGroup u g).block = s.block := rfl
@[simp] theorem setGroup_ports (s : State) (u : UnitId) (g : PortGroup) :
    (s.setGroup u g).ports =
      s.ports.setGroup u g := rfl
@[simp] theorem setGroup_work (s : State) (u : UnitId) (g : PortGroup) : (s.setGroup u g).work = s.work := rfl
@[simp] theorem setGroup_slots (s : State) (u : UnitId) (g : PortGroup) : (s.setGroup u g).slots = s.slots := rfl
@[simp] theorem setGroup_reports (s : State) (u : UnitId) (g : PortGroup) :
    (s.setGroup u g).reports =
      s.reports := rfl
@[simp] theorem setGroup_readings (s : State) (u : UnitId) (g : PortGroup) :
    (s.setGroup u g).readings =
      s.readings := rfl
@[simp] theorem setGroup_words (s : State) (u : UnitId) (g : PortGroup) : (s.setGroup u g).words = s.words := rfl
@[simp] theorem setGroup_draws (s : State) (u : UnitId) (g : PortGroup) : (s.setGroup u g).draws = s.draws := rfl

@[simp] theorem storeSlot_block (s : State) (r : Response) : (s.storeSlot r).block = s.block := rfl
@[simp] theorem storeSlot_ports (s : State) (r : Response) : (s.storeSlot r).ports = s.ports := rfl
@[simp] theorem storeSlot_work (s : State) (r : Response) : (s.storeSlot r).work = s.work := rfl
@[simp] theorem storeSlot_slots (s : State) (r : Response) : (s.storeSlot r).slots = s.slots ++ [r] := rfl
@[simp] theorem storeSlot_reports (s : State) (r : Response) : (s.storeSlot r).reports = s.reports := rfl
@[simp] theorem storeSlot_readings (s : State) (r : Response) : (s.storeSlot r).readings = s.readings := rfl
@[simp] theorem storeSlot_words (s : State) (r : Response) : (s.storeSlot r).words = s.words := rfl
@[simp] theorem storeSlot_draws (s : State) (r : Response) : (s.storeSlot r).draws = s.draws := rfl

@[simp] theorem noteReading_block (s : State) (r : Response) : (s.noteReading r).block = s.block := rfl
@[simp] theorem noteReading_ports (s : State) (r : Response) : (s.noteReading r).ports = s.ports := rfl
@[simp] theorem noteReading_work (s : State) (r : Response) : (s.noteReading r).work = s.work := rfl
@[simp] theorem noteReading_slots (s : State) (r : Response) : (s.noteReading r).slots = s.slots := rfl
@[simp] theorem noteReading_reports (s : State) (r : Response) : (s.noteReading r).reports = s.reports := rfl
@[simp] theorem noteReading_readings (s : State) (r : Response) :
    (s.noteReading r).readings =
      s.readings ++ [r] := rfl
@[simp] theorem noteReading_words (s : State) (r : Response) : (s.noteReading r).words = s.words := rfl
@[simp] theorem noteReading_draws (s : State) (r : Response) : (s.noteReading r).draws = s.draws := rfl

@[simp] theorem noteFreeReading_block (s : State) : s.noteFreeReading.block = s.block := rfl
@[simp] theorem noteFreeReading_ports (s : State) : s.noteFreeReading.ports = s.ports := rfl
@[simp] theorem noteFreeReading_work (s : State) : s.noteFreeReading.work = s.work := rfl
@[simp] theorem noteFreeReading_slots (s : State) : s.noteFreeReading.slots = s.slots := rfl
@[simp] theorem noteFreeReading_reports (s : State) : s.noteFreeReading.reports = s.reports := rfl
@[simp] theorem noteFreeReading_readings (s : State) :
    s.noteFreeReading.readings =
      s.readings ++ [⟨Config.freeHi s.draws, Config.freeLo s.draws⟩] := rfl
@[simp] theorem noteFreeReading_words (s : State) : s.noteFreeReading.words = s.words := rfl
@[simp] theorem noteFreeReading_draws (s : State) : s.noteFreeReading.draws = s.draws + 1 := rfl

@[simp] theorem noteWord_block (s : State) (w : WordReading) : (s.noteWord w).block = s.block := rfl
@[simp] theorem noteWord_ports (s : State) (w : WordReading) : (s.noteWord w).ports = s.ports := rfl
@[simp] theorem noteWord_work (s : State) (w : WordReading) : (s.noteWord w).work = s.work := rfl
@[simp] theorem noteWord_slots (s : State) (w : WordReading) : (s.noteWord w).slots = s.slots := rfl
@[simp] theorem noteWord_reports (s : State) (w : WordReading) : (s.noteWord w).reports = s.reports := rfl
@[simp] theorem noteWord_readings (s : State) (w : WordReading) : (s.noteWord w).readings = s.readings := rfl
@[simp] theorem noteWord_words (s : State) (w : WordReading) : (s.noteWord w).words = w :: s.words := rfl
@[simp] theorem noteWord_draws (s : State) (w : WordReading) : (s.noteWord w).draws = s.draws := rfl

@[simp] theorem wait_block (s : State) (n : Nat) : (s.wait n).block = s.block := rfl
@[simp] theorem wait_ports (s : State) (n : Nat) : (s.wait n).ports = s.ports.elapse n := rfl
@[simp] theorem wait_work (s : State) (n : Nat) : (s.wait n).work = s.work := rfl
@[simp] theorem wait_slots (s : State) (n : Nat) : (s.wait n).slots = s.slots := rfl
@[simp] theorem wait_reports (s : State) (n : Nat) : (s.wait n).reports = s.reports := rfl
@[simp] theorem wait_readings (s : State) (n : Nat) : (s.wait n).readings = s.readings := rfl
@[simp] theorem wait_words (s : State) (n : Nat) : (s.wait n).words = s.words := rfl
@[simp] theorem wait_draws (s : State) (n : Nat) : (s.wait n).draws = s.draws := rfl

@[simp] theorem completeCall_block (s : State) (u : UnitId) (a b : Word) (r : Response) :
    (s.completeCall u a b r).block =
      s.block := rfl
@[simp] theorem completeCall_ports (s : State) (u : UnitId) (a b : Word) (r : Response) :
    (s.completeCall u a b r).ports =
      s.ports.setGroup u ((s.ports.group u).setInputs (some a) (some b)).settleNow := rfl
@[simp] theorem completeCall_work (s : State) (u : UnitId) (a b : Word) (r : Response) :
    (s.completeCall u a b r).work =
      s.work := rfl
@[simp] theorem completeCall_slots (s : State) (u : UnitId) (a b : Word) (r : Response) :
    (s.completeCall u a b r).slots =
      s.slots ++ [r] := rfl
@[simp] theorem completeCall_reports (s : State) (u : UnitId) (a b : Word) (r : Response) :
    (s.completeCall u a b r).reports =
      s.reports := rfl
@[simp] theorem completeCall_readings (s : State) (u : UnitId) (a b : Word) (r : Response) :
    (s.completeCall u a b r).readings =
      s.readings := rfl
@[simp] theorem completeCall_words (s : State) (u : UnitId) (a b : Word) (r : Response) :
    (s.completeCall u a b r).words =
      s.words := rfl
@[simp] theorem completeCall_draws (s : State) (u : UnitId) (a b : Word) (r : Response) :
    (s.completeCall u a b r).draws =
      s.draws := rfl

@[simp] theorem driveA_block (s : State) (u : UnitId) (v : Word) : (s.driveA u v).block = s.block := rfl
@[simp] theorem driveA_ports (s : State) (u : UnitId) (v : Word) :
    (s.driveA u v).ports =
      s.ports.setGroup u ((s.ports.group u).setInputs (some v) (s.ports.group u).b) := rfl
@[simp] theorem driveA_work (s : State) (u : UnitId) (v : Word) : (s.driveA u v).work = s.work := rfl
@[simp] theorem driveA_slots (s : State) (u : UnitId) (v : Word) : (s.driveA u v).slots = s.slots := rfl
@[simp] theorem driveA_reports (s : State) (u : UnitId) (v : Word) : (s.driveA u v).reports = s.reports := rfl
@[simp] theorem driveA_readings (s : State) (u : UnitId) (v : Word) : (s.driveA u v).readings = s.readings := rfl
@[simp] theorem driveA_words (s : State) (u : UnitId) (v : Word) : (s.driveA u v).words = s.words := rfl
@[simp] theorem driveA_draws (s : State) (u : UnitId) (v : Word) : (s.driveA u v).draws = s.draws := rfl

@[simp] theorem driveB_block (s : State) (u : UnitId) (v : Word) : (s.driveB u v).block = s.block := rfl
@[simp] theorem driveB_ports (s : State) (u : UnitId) (v : Word) :
    (s.driveB u v).ports =
      s.ports.setGroup u ((s.ports.group u).setInputs (s.ports.group u).a (some v)) := rfl
@[simp] theorem driveB_work (s : State) (u : UnitId) (v : Word) : (s.driveB u v).work = s.work := rfl
@[simp] theorem driveB_slots (s : State) (u : UnitId) (v : Word) : (s.driveB u v).slots = s.slots := rfl
@[simp] theorem driveB_reports (s : State) (u : UnitId) (v : Word) : (s.driveB u v).reports = s.reports := rfl
@[simp] theorem driveB_readings (s : State) (u : UnitId) (v : Word) : (s.driveB u v).readings = s.readings := rfl
@[simp] theorem driveB_words (s : State) (u : UnitId) (v : Word) : (s.driveB u v).words = s.words := rfl
@[simp] theorem driveB_draws (s : State) (u : UnitId) (v : Word) : (s.driveB u v).draws = s.draws := rfl

@[simp] theorem popWork_block (s : State) : s.popWork.block = s.block := rfl
@[simp] theorem popWork_ports (s : State) : s.popWork.ports = s.ports := rfl
@[simp] theorem popWork_work (s : State) : s.popWork.work = s.work.tail := rfl
@[simp] theorem popWork_slots (s : State) : s.popWork.slots = s.slots := rfl
@[simp] theorem popWork_reports (s : State) : s.popWork.reports = s.reports := rfl
@[simp] theorem popWork_readings (s : State) : s.popWork.readings = s.readings := rfl
@[simp] theorem popWork_words (s : State) : s.popWork.words = s.words := rfl
@[simp] theorem popWork_draws (s : State) : s.popWork.draws = s.draws := rfl

@[simp] theorem load_block (s : State) (p : List ProgLine) : (s.load p).block = s.block := rfl
@[simp] theorem load_ports (s : State) (p : List ProgLine) : (s.load p).ports = s.ports := rfl
@[simp] theorem load_work (s : State) (p : List ProgLine) : (s.load p).work = expand p := rfl
@[simp] theorem load_slots (s : State) (p : List ProgLine) : (s.load p).slots = [] := rfl
@[simp] theorem load_reports (s : State) (p : List ProgLine) : (s.load p).reports = s.reports := rfl
@[simp] theorem load_readings (s : State) (p : List ProgLine) : (s.load p).readings = s.readings := rfl
@[simp] theorem load_words (s : State) (p : List ProgLine) : (s.load p).words = s.words := rfl
@[simp] theorem load_draws (s : State) (p : List ProgLine) : (s.load p).draws = s.draws := rfl

@[simp] theorem placeRecord_block (s : State) (bs : List Byte) : (s.placeRecord bs).block = s.block := rfl
@[simp] theorem placeRecord_ports (s : State) (bs : List Byte) : (s.placeRecord bs).ports = s.ports := rfl
@[simp] theorem placeRecord_work (s : State) (bs : List Byte) : (s.placeRecord bs).work = [.record bs] := rfl
@[simp] theorem placeRecord_slots (s : State) (bs : List Byte) : (s.placeRecord bs).slots = s.slots := rfl
@[simp] theorem placeRecord_reports (s : State) (bs : List Byte) : (s.placeRecord bs).reports = s.reports := rfl
@[simp] theorem placeRecord_readings (s : State) (bs : List Byte) : (s.placeRecord bs).readings = s.readings := rfl
@[simp] theorem placeRecord_words (s : State) (bs : List Byte) : (s.placeRecord bs).words = s.words := rfl
@[simp] theorem placeRecord_draws (s : State) (bs : List Byte) : (s.placeRecord bs).draws = s.draws := rfl

/-! ### The last word read of a port -/

/-- A word just noted is the last one of its port. -/
@[simp] theorem lastWord_noteWord_self (s : State) (w : WordReading) :
    (s.noteWord w).lastWord w.unit w.port = some w := by
  simp [State.lastWord]

/-- A word of another port hides nothing. -/
theorem lastWord_noteWord_of_ne (s : State) (w : WordReading) (u : UnitId) (p : OutPort) (h : w.port ≠ p) :
    (s.noteWord w).lastWord u p = s.lastWord u p := by
  simp [State.lastWord, h]

/-- Only the words decide what the last word is. -/
theorem lastWord_congr (s t : State) (u : UnitId) (p : OutPort) (h : t.words = s.words) :
    t.lastWord u p = s.lastWord u p := by
  simp only [State.lastWord, h]

/-- The last word of a port is a word noted of that port. -/
theorem lastWord_spec (s : State) (u : UnitId) (p : OutPort) (w : WordReading) (h : s.lastWord u p = some w) :
    w ∈ s.words ∧ w.unit = u ∧ w.port = p :=
  ⟨List.mem_of_find?_eq_some h,
    by simpa using List.find?_some (p := fun w : WordReading => decide (w.unit = u ∧ w.port = p)) h⟩

end Sys2Proof.Machine
end

