-- ==== Sys2Proof/Laws/Step.lean ====
section
/-! SUPPORT. What a call, a host action and a step can do, said once: provers cite these and unfold nothing
(spec/70_reset_and_hazards.md R94, R98). -/

namespace Sys2Proof.Machine

/-! ### Calls -/

/-- The three meanings are one shape: the call of the instruction's unit on its operands completes (R98). -/
theorem exec_eq (i : Instr) (s : State) :
    exec i s = .next (s.completeCall i.unit i.opA i.opB (unitResult i.unit i.opA i.opB)) := by
  cases i <;> rfl

@[simp] theorem ofUnit_unit (u : UnitId) (a b : Word) : (Instr.ofUnit u a b).unit = u := by cases u <;> rfl
@[simp] theorem ofUnit_opA (u : UnitId) (a b : Word) : (Instr.ofUnit u a b).opA = a := by cases u <;> rfl
@[simp] theorem ofUnit_opB (u : UnitId) (a b : Word) : (Instr.ofUnit u a b).opB = b := by cases u <;> rfl

@[simp] theorem ofUnit_parts (i : Instr) : Instr.ofUnit i.unit i.opA i.opB = i := by cases i <;> rfl

/-- A presented record either is one call or is refused by the decoder (R36, R88). -/
theorem present_cases (bs : List Byte) (s : State) :
    (∃ i, decodeBytes bs = .ok i ∧ present bs s = exec i s) ∨
    (∃ e, decodeBytes bs = .error e ∧ present bs s = .refused (.invalidRecord e)) := by
  unfold present
  cases h : decodeBytes bs with
  | ok i => exact .inl ⟨i, rfl, rfl⟩
  | error e => exact .inr ⟨e, rfl, rfl⟩

/-! ### The step -/

/-- A step that answers a next state performs the first item of well-formed work (R37, R98). -/
theorem step_next_cases (s t : State) (h : step s = .next t) :
    ∃ it rest, s.work = it :: rest ∧ s.workWf = true ∧ perform it s.popWork = .next t := by
  unfold step at h
  split at h
  · cases h
  · rename_i it rest hw
    split at h
    · exact ⟨it, rest, hw, ‹_›, h⟩
    · cases h

/-- With well-formed work at hand, the step performs its first item. -/
theorem step_of_wf (s : State) (it : HostItem) (rest : List HostItem) (hw : s.work = it :: rest)
    (hf : s.workWf = true) : step s = perform it s.popWork := by
  unfold step
  rw [hw]
  simp [hf]

/-- A run whose first step goes on is that step and the rest of the run. -/
theorem run_succ_of_next (k : Nat) (s t : State) (h : step s = .next t) :
    Host.Core.run Sys2Proof.core (k + 1) s = Host.Core.run Sys2Proof.core k t := by
  have h' : Host.Core.step Sys2Proof.core s = .next t := h
  simp only [Host.Core.run, h']

/-- A run whose first step is refused stops there. -/
theorem run_succ_of_refused (k : Nat) (s : State) (r : Refusal) (h : step s = .refused r) :
    Host.Core.run Sys2Proof.core (k + 1) s = .refused r := by
  have h' : Host.Core.step Sys2Proof.core s = .refused r := h
  simp only [Host.Core.run, h']

/-- What each item can do when it answers a next state. -/
theorem perform_next_cases (it : HostItem) (s t : State) (h : perform it s = .next t) :
    (∃ i, exec i s = .next t ∧ ((∃ bs, it = .record bs ∧ decodeBytes bs = .ok i) ∨ ∃ l, it = .line l)) ∨
    (∃ k x y ds, it = .check k x y ∧ t = { s with reports := s.reports ++ ds }) ∨
    (∃ u v, it = .driveA u v ∧ t = s.driveA u v) ∨
    (∃ u v, it = .driveB u v ∧ t = s.driveB u v) ∨
    (∃ n, it = .wait n ∧ t = s.wait n) ∨
    (∃ u, it = .readBoth u ∧ s.readBoth u = .next t) ∨
    (∃ u p, it = .readOne u p ∧ s.readOne u p = .next t) ∨
    (∃ u, it = .takePair u ∧ t = s.takePair u) := by
  cases it with
  | record bs =>
    obtain ⟨i, hi, hp⟩ | ⟨e, -, hp⟩ := present_cases bs s
    · exact .inl ⟨i, hp ▸ h, .inl ⟨bs, rfl, hi⟩⟩
    · rw [perform, hp] at h
      cases h
  | line l =>
    simp only [perform, performLine] at h
    split at h
    · rename_i a b _ _
      obtain ⟨i, -, hp⟩ | ⟨e, -, hp⟩ := present_cases (encodeBytes (Instr.ofUnit l.op a b)) s
      · exact .inl ⟨i, hp ▸ h, .inr ⟨l, rfl⟩⟩
      · rw [hp] at h
        cases h
    · cases h
  | check k x y =>
    simp only [perform, hostCheck] at h
    split at h
    · split at h
      · cases h
        exact .inr (.inl ⟨k, x, y, [], rfl, by simp⟩)
      · cases h
        exact .inr (.inl ⟨k, x, y, _, rfl, rfl⟩)
    · cases h
  | driveA u v => cases h; exact .inr (.inr (.inl ⟨u, v, rfl, rfl⟩))
  | driveB u v => cases h; exact .inr (.inr (.inr (.inl ⟨u, v, rfl, rfl⟩)))
  | wait n => cases h; exact .inr (.inr (.inr (.inr (.inl ⟨n, rfl, rfl⟩))))
  | readBoth u => exact .inr (.inr (.inr (.inr (.inr (.inl ⟨u, rfl, h⟩)))))
  | readOne u p => exact .inr (.inr (.inr (.inr (.inr (.inr (.inl ⟨u, p, rfl, h⟩))))))
  | takePair u => cases h; exact .inr (.inr (.inr (.inr (.inr (.inr (.inr ⟨u, rfl, rfl⟩))))))

/-! ### Readings at the ports -/

/-- The output ports have a value exactly when the inputs are driven and settled (R16, R91, R94). -/
theorem outputWords_eq_some (u : UnitId) (g : PortGroup) (r : Response) :
    outputWords u g = some r ↔
      ∃ a b, g.a = some a ∧ g.b = some b ∧ g.settle = .settled ∧ r = unitResult u a b := by
  obtain ⟨a, b, st, hf⟩ := g
  cases a <;> cases b <;> cases st <;> simp [outputWords, eq_comm]

/-- What reading both words at once can do (R94, U3). -/
theorem readBoth_next_cases (s t : State) (u : UnitId) (h : s.readBoth u = .next t) :
    (∃ r, outputWords u (s.ports.group u) = some r ∧ t = s.noteReading r) ∨
    (outputWords u (s.ports.group u) = none ∧ t = s.noteFreeReading) := by
  unfold State.readBoth at h
  split at h
  · split at h
    · cases h
      exact .inl ⟨_, ‹_›, rfl⟩
    · cases h
      exact .inr ⟨‹_›, rfl⟩
  · cases h

/-- What reading one word can do: note it, and nothing else (R25, R94). -/
theorem readOne_next_cases (s t : State) (u : UnitId) (p : OutPort) (h : s.readOne u p = .next t) :
    (s.ports.group u).driven = true ∧
    t = s.noteWord ⟨u, p, (outputWords u (s.ports.group u)).map (fun r => r.word p),
      (s.ports.group u).changes⟩ := by
  unfold State.readOne at h
  split at h
  · cases h
    exact ⟨‹_›, rfl⟩
  · cases h

/-- A pair is made of two words of one port each, read with the same inputs (R94). -/
theorem lastPair_eq_some (s : State) (u : UnitId) (r : Response) (h : s.lastPair u = some r) :
    ∃ x y : WordReading, s.lastWord u .hi = some x ∧ s.lastWord u .lo = some y ∧ x.changes = y.changes ∧
      x.value = some r.hi ∧ y.value = some r.lo := by
  unfold State.lastPair at h
  split at h
  · rename_i x y hx hy
    unfold pairOf at h
    split at h
    · split at h
      · cases h
        exact ⟨x, y, hx, hy, ‹_›, ‹_›, ‹_›⟩
      · cases h
    · cases h
  · cases h

/-- What taking a pair can do (R94, U3). -/
theorem takePair_cases (s : State) (u : UnitId) :
    (∃ r, s.lastPair u = some r ∧ s.takePair u = s.noteReading r) ∨
    (s.lastPair u = none ∧ s.takePair u = s.noteFreeReading) := by
  unfold State.takePair
  split
  · exact .inl ⟨_, ‹_›, rfl⟩
  · exact .inr ⟨‹_›, rfl⟩

end Sys2Proof.Machine
end

