-- ==== Sys2Proof/Tests/Slice0.lean ====
section
/-! SUPPORT. Tests and witnesses. Expected results come from spec/95_test_vectors.md (the vector is named in each
comment). The witnesses at the end show that the hypotheses of every statement can be met. -/

open Sys2Proof Sys2Proof.Machine

namespace Sys2Proof.Tests

/-- The slots of an outcome; none where it stops. -/
def slotsOf : Host.Outcome State Fault Refusal → Option (List Response)
  | .next t => some t.slots
  | _ => none

/-- Why an outcome is refused. -/
def refusalOf : Host.Outcome State Fault Refusal → Option Refusal
  | .refused r => some r
  | _ => none

/-! ### Well-formedness: an ill-formed term for each check -/

theorem test_wf_unit_three : (RawRequest.mk 3 0 0).wellFormed = false := by decide
theorem test_wf_first_operand_too_wide : (RawRequest.mk 0 (2 ^ 64) 0).wellFormed = false := by decide
theorem test_wf_second_operand_too_wide : (RawRequest.mk 0 0 (2 ^ 64)).wellFormed = false := by decide
theorem test_wf_largest_raw_request :
    (RawRequest.mk 2 (2 ^ 64 - 1) (2 ^ 64 - 1)).toInstr = some (.muln 0xFFFFFFFFFFFFFFFF 0xFFFFFFFFFFFFFFFF) := by
  decide
/-- P6: `r0` is read before it is assigned. -/
theorem test_wf_slot_read_too_early : programWf [.call ⟨0, .A, .lo 0, .lit 1⟩] = false := by decide
/-- P6: the first slot is not `r0`. -/
theorem test_wf_first_slot : programWf [.call ⟨1, .A, .lit 1, .lit 1⟩] = false := by decide
/-- P6: the literal is `2^64`. -/
theorem test_wf_literal : programWf [.call ⟨0, .A, .lit (2 ^ 64), .lit 1⟩] = false := by decide
/-- A second source is checked too, and inside an XCHK. -/
theorem test_wf_xchk_source : programWf [.xchk 0 (.lit 1) (.hi 0)] = false := by decide
/-- P2: an XCHK takes three slots. -/
theorem test_wf_xchk_slots : programWf [.xchk 0 (.lit 1) (.lit 2), .xchk 3 (.lit 2) (.hi 2)] = true := by decide
/-- A check needs its three slots. -/
theorem test_wf_check_slots : itemsWf 2 [.check 0 (.lit 1) (.lit 1)] = false := by decide

/-! ### Decoding: words of spec/95_test_vectors.md section 5 -/

theorem test_decode_Q1_mula :
    decode 0x080000000000000000000000000000002 = .ok (.mula 0x8000000000000000 2) := by decide
theorem test_decode_Q2_mulb :
    decode 0x100000000FFFFFFFF00000000FFFFFFFF = .ok (.mulb 0xFFFFFFFF 0xFFFFFFFF) := by decide
theorem test_decode_Q7_muln :
    decode 0x20000000000000001123456789ABCDEF0 = .ok (.muln 1 0x123456789ABCDEF0) := by decide
theorem test_decode_Q5_invalid : decode 0x300000000000000000000000000000000 = .error .unitCode := by decide
/-- The bits of a record one by one (R32): unit 10, then `a` with only bit 63, then `b` with only bit 0. -/
theorem test_decode_bit_by_bit :
    decode ((0b10 : BitVec 2) ++ (0b1 : BitVec 1) ++ (0 : BitVec 63) ++ (0 : BitVec 63) ++ (0b1 : BitVec 1)) =
      .ok (.muln 0x8000000000000000 1) := by decide
/-- Q1 as 17 bytes. -/
theorem test_decode_bytes_Q1 :
    decodeBytes [2, 0, 0, 0, 0, 0, 0, 0, 0, 0, 0, 0, 0, 0, 0, 0x80, 0] = .ok (.mula 0x8000000000000000 2) := by
  decide
/-- Q3 as 17 bytes: sixteen bytes FF, then 02. -/
theorem test_encode_bytes_Q3 :
    encodeBytes (.muln 0xFFFFFFFFFFFFFFFF 0xFFFFFFFFFFFFFFFF) = List.replicate 16 0xFF ++ [2] := by decide
/-- U9: byte 16 above 3. -/
theorem test_decode_bytes_U9 : decodeBytes (List.replicate 16 0 ++ [4]) = .error (.byte16 4) := by decide
theorem test_decode_bytes_short : decodeBytes (List.replicate 16 0) = .error (.length 16) := by decide
/-- The response of Q1 as 16 bytes: `lo` first. -/
theorem test_response_bytes_Q1 :
    encodeResponseBytes ⟨1, 0⟩ = [0, 0, 0, 0, 0, 0, 0, 0, 1, 0, 0, 0, 0, 0, 0, 0] := by decide
/-- The table's rows do not overlap. -/
theorem test_table_rows_disjoint : opcodeTable.Pairwise (fun r r' => r.pattern &&& r'.mask ≠ r'.pattern) := by decide
theorem test_table_word : decodeTableWord 136 0x20000000000000001123456789ABCDEF0 =
    some (.muln 1 0x123456789ABCDEF0) := by decide
theorem test_table_word_short : decodeTableWord 8 5 = some (.mula 0 5) := by decide

/-! ### Text (R37, R39) -/

/-- The request text of Q7. -/
theorem test_text_request_Q7 :
    requestOfText "0x2_0000000000000001_123456789ABCDEF0".toList = some (.muln 1 0x123456789ABCDEF0) := by decide
theorem test_text_request_Q6 :
    requestOfText "0x3_FFFFFFFFFFFFFFFF_FFFFFFFFFFFFFFFF".toList = none := by decide
/-- The response text of NV11's row in section 2, V25. -/
theorem test_text_response_V25 :
    textOfResponse ⟨0x00FD5BDEEEB2A01D, 0x7EB689F4EA447D62⟩ = "0x00FD5BDEEEB2A01D_7EB689F4EA447D62".toList := by
  decide
/-- A line of P3. -/
theorem test_text_line_P3 : lineOfText "r2 = MULN r1.hi, r1.lo".toList = some (.call ⟨2, .N, .hi 1, .lo 1⟩) := by decide
/-- A line of P2. -/
theorem test_text_line_P2 : lineOfText "r3 = XCHK 0x0FEDCBA987654321, 0x123456789ABCDEF0".toList =
    some (.xchk 3 (.lit 0x0FEDCBA987654321) (.lit 0x123456789ABCDEF0)) := by decide
/-- P6: refused as a whole when placed. -/
theorem test_text_program_P6 : refusalOf (State.reset.loadText
    ["r0 = MULA 0x10000000000000000, 0x0000000000000001".toList]) = some .illFormedProgram := by decide

/-! ### The three operations, one call each -/

/-- V25, NV11: only `c1` set. -/
theorem test_mula_V25 : slotsOf (exec (.mula 0xDEADBEEFCAFEBABE 0x0123456789ABCDEF) .reset) =
    some [⟨0x00FD5BDEEEB2A01D, 0x7EB689F4EA447D62⟩] := by decide
/-- V26, NV10: both carries set. -/
theorem test_mula_V26 : slotsOf (exec (.mula 0x1FFFFFFFF 0x1FFFFFFFF) .reset) =
    some [⟨3, 0xFFFFFFFC00000001⟩] := by decide
/-- V27, NV16. -/
theorem test_mulb_V27 : slotsOf (exec (.mulb 0x9E3779B97F4A7C15 0xC2B2AE3D27D4EB4F) .reset) =
    some [⟨0x78547880B6031473, 0xF58D71AE9C47917B⟩] := by decide
/-- V16, NV1: `k2` at its bound. -/
theorem test_mulb_V16 : slotsOf (exec (.mulb 0xFFFFFFFFFFFFFFFF 0xFFFFFFFFFFFFFFFF) .reset) =
    some [⟨0xFFFFFFFFFFFFFFFE, 1⟩] := by decide
/-- V15, on both builds: a signed multiplier would differ. -/
theorem test_muln_V15 : ∀ wide, mulN wide 0xFFFFFFFFFFFFFFFF 0x8000000000000000 =
    ⟨0x7FFFFFFFFFFFFFFF, 0x8000000000000000⟩ := by decide
/-- V23, on both builds. -/
theorem test_muln_V23 : ∀ wide, mulN wide 0x123456789ABCDEF0 0x0FEDCBA987654321 =
    ⟨0x0121FA00AD77D742, 0x2236D88FE5618CF0⟩ := by decide

/-! ### Nodes (spec/95_test_vectors.md section 4) -/

/-- NV11. -/
theorem test_nodesA_NV11 : let n := nodesA 0xDEADBEEFCAFEBABE 0x0123456789ABCDEF
    n.p00 = 0x6D2A8D61EA447D62 ∧ n.p01 = 0x00E6F6969ACC5872 ∧ n.p10 = 0x77C06C5D76BFA421 ∧
    n.p11 = 0x00FD5BDE760B3D29 ∧ n.x01 = 0x9ACC587200000000 ∧ n.x10 = 0x76BFA42100000000 ∧
    n.s1 = 0x107F6E5D3EA447D62 ∧ n.t1 = 0x07F6E5D3EA447D62 ∧ n.c1 = 1 ∧ n.s2 = 0x07EB689F4EA447D62 ∧ n.c2 = 0 ∧
    n.u01 = 0x00E6F696 ∧ n.u10 = 0x77C06C5D := by decide
/-- NV9. -/
theorem test_nodesB_NV9 : let n := nodesB 0x0FEDCBA987654321 0x123456789ABCDEF0
    n.t0 = 0x51D6CEA7E5618CF0 ∧ n.w0 = 0xE5618CF0 ∧ n.k0 = 0x51D6CEA7 ∧ n.q10 = 0x09A0CD045FA77C70 ∧
    n.t1 = 0x09A0CD04B17E4B17 ∧ n.w1 = 0xB17E4B17 ∧ n.w2 = 0x09A0CD04 ∧ n.q01 = 0x09A0CD0570B88D78 ∧
    n.t2 = 0x09A0CD062236D88F ∧ n.v1 = 0x2236D88F ∧ n.k2 = 0x09A0CD06 ∧ n.q11 = 0x0121FA009A363D38 := by decide

/-! ### One step -/

/-- The placed record of Q1 runs as the first thing after reset. -/
theorem test_step_Q1 : slotsOf (step (State.reset.withFetchWord 136 0x080000000000000000000000000000002)) =
    some [⟨1, 0⟩] := by decide
/-- P6: a record with unit code 3 is refused. -/
theorem test_step_invalid : refusalOf (step (State.reset.withFetchWord 136 0x300000000000000010000000000000001)) =
    some (.invalidRecord .unitCode) := by decide
/-- P1, line 1 after line 0 was placed elsewhere: one line, one call. -/
theorem test_step_line : slotsOf (step (State.reset.load [.call ⟨0, .A, .lit 0x8000000000000000, .lit 2⟩])) =
    some [⟨1, 0⟩] := by decide
/-- P6: refused before any call. -/
theorem test_step_ill_formed : refusalOf (step (State.reset.load
    [.call ⟨0, .A, .lit 1, .lit 1⟩, .call ⟨1, .A, .lo 1, .lit 1⟩])) = some .illFormedProgram := by decide
theorem test_step_idle : refusalOf (step .reset) = some .noCallPresented := by decide

/-! ### Witnesses: the hypotheses of the statements can be met -/

/-- A state whose only work is a list of items. -/
def withWork (is : List HostItem) : State := { State.reset with work := is }

/-- A state whose unit `A` is driven, settled. -/
def settledA : State := { State.reset with ports := ⟨⟨some 3, some 5, .settled, 0⟩, .undriven, .undriven⟩ }

/-- A state whose unit `A` has just been driven. -/
def movingA : State := { State.reset with ports := ⟨⟨some 3, some 5, .moving 0, 0⟩, .undriven, .undriven⟩ }

theorem witness_WrittenUnitCodes : reqUnit (encode (.mula 1 2)) = 0 ∧ reqUnit (encode (.mulb 1 2)) = 1 ∧
    reqUnit (encode (.muln 1 2)) = 2 ∧ reqUnit 0x3FFFFFFFFFFFFFFFFFFFFFFFFFFFFFFFF = 3 ∧
    decode (encode (.muln 1 2)) = .ok (.muln 1 2) ∧ (∃ row ∈ opcodeTable, row.hit (encode (.muln 1 2)) = true) := by
  decide

theorem witness_ByteFormOfRequestRoundTrips :
    decodeBytes (List.replicate 16 0xFF ++ [2]) = .ok (.muln 0xFFFFFFFFFFFFFFFF 0xFFFFFFFFFFFFFFFF) ∧ 15 < 16 := by
  decide

theorem witness_ByteFormOfResponseRoundTrips : (List.replicate 15 (0 : Byte)).length ≠ 16 ∧ 7 < 8 := by decide

/-- Both clauses: unit code 3, and the largest other one. -/
theorem witness_UnitCodeThreeIsRefusedAndTheOthersRun :
    (∃ (w : BitVec 130) (bs : List Byte), bs.length = 17 ∧ natOfBytes bs = w.toNat ∧
      (withWork [.record bs]).workWf = true ∧ reqUnit w = 3) ∧
    (∃ (w : BitVec 130) (bs : List Byte), bs.length = 17 ∧ natOfBytes bs = w.toNat ∧
      (withWork [.record bs]).workWf = true ∧ reqUnit w = 2) :=
  ⟨⟨0x3FFFFFFFFFFFFFFFFFFFFFFFFFFFFFFFF, List.replicate 16 0xFF ++ [3], by decide⟩,
   ⟨0x2FFFFFFFFFFFFFFFFFFFFFFFFFFFFFFFF, List.replicate 16 0xFF ++ [2], by decide⟩⟩

/-- Both clauses at the boundary: 16 and 18 bytes, and byte 16 equal to 4. -/
theorem witness_MalformedByteFormsAreRefused :
    (withWork [.record (List.replicate 18 0)]).workWf = true ∧ (List.replicate 16 (0 : Byte)).length ≠ 17 ∧
    (List.replicate 18 (0 : Byte)).length ≠ 17 ∧ (List.replicate 16 (0 : Byte) ++ [4]).length = 17 ∧
    (List.replicate 16 (0 : Byte) ++ [4])[16]? = some 4 ∧ 3 < (4 : Byte).toNat := by decide

theorem witness_StepRunsThePresentedRecord :
    (withWork [.record (encodeBytes (.mulb 7 9))]).workWf = true ∧
    decodeBytes (encodeBytes (.mulb 7 9)) = .ok (.mulb 7 9) := by decide

theorem witness_StepRunsTheResolvedLine :
    (withWork [.line ⟨0, .N, .lit (2 ^ 64 - 1), .lit 0⟩]).work = [.line ⟨0, .N, .lit (2 ^ 64 - 1), .lit 0⟩] ∧
    (withWork [.line ⟨0, .N, .lit (2 ^ 64 - 1), .lit 0⟩]).workWf = true := by decide

theorem witness_SourcesResolve : ([⟨1, 2⟩] : List Response)[0]? = some ⟨1, 2⟩ ∧
    (Src.lit (0xFFFFFFFFFFFFFFFF : Word).toNat).resolve [] = some 0xFFFFFFFFFFFFFFFF := by decide

/-- The clauses on operands of the three operations, at one call each. -/
theorem witness_OperationsDeliverTheProduct :
    slotsOf (exec (.mula 0 7) .reset) = some [⟨0, 0⟩] ∧ slotsOf (exec (.mula 7 1) .reset) = some [⟨0, 7⟩] ∧
    slotsOf (exec (.mulb 1 7) .reset) = some [⟨0, 7⟩] ∧
    (∀ wide, mulN wide 0xFFFFFFFFFFFFFFFF 0xFFFFFFFFFFFFFFFF = ⟨0xFFFFFFFFFFFFFFFE, 1⟩) ∧
    (settledA.ports.group .A).a = some 3 ∧ (settledA.ports.group .A).settle = .settled ∧
    outputWords .A (settledA.ports.group .A) = some ⟨0, 15⟩ := by decide

theorem witness_CallChangesOnlyItsSlotAndItsOwnPorts : UnitId.B ≠ (Instr.mula 1 2).unit := by decide

theorem witness_ContractFixesEveryResultBit :
    (1 : Word).toNat * 2 ^ 64 + (0 : Word).toNat = (0x8000000000000000 : Word).toNat * (2 : Word).toNat := by decide

theorem witness_HighWordNeverReachesAllOnes :
    (mulA 0xFFFFFFFFFFFFFFFF 0xFFFFFFFFFFFFFFFF).hi = 0xFFFFFFFFFFFFFFFE ∧
    (mulA 0xFFFFFFFFFFFFFFFF 0xFFFFFFFFFFFFFFFE).hi ≠ 0xFFFFFFFFFFFFFFFE := by decide

/-- Every clause of the laws at a boundary value of its range. -/
theorem witness_ArithmeticLawsOfTheProduct :
    (0xFFFFFFFF : Word).toNat < 2 ^ 32 ∧ 0 ≤ 63 ∧ 63 ≤ 63 ∧ 1 ≤ (1 : Word).toNat ∧
    (mulB 0xFFFFFFFFFFFFFFFF 0x8000000000000000).hi = (0xFFFFFFFFFFFFFFFF : Word) >>> (64 - 63) ∧
    (mulB 0xFFFFFFFFFFFFFFFF 1).hi = 0 ∧ (mulB 1 0xFFFFFFFFFFFFFFFF).hi.toNat = 0 ∧
    (1 : Word).toNat ≤ (1 : Word).toNat := by decide

theorem witness_ResetIsSound : Sound State.reset := by
  refine ⟨fun r h => (by cases h), fun u h => ?_, ⟨fun w h => (by cases h), fun w h => (by cases h)⟩,
    fun r h => (by cases h)⟩
  cases u <;> cases h

/-- A sound state from which a step goes on, with an assigned slot. -/
theorem witness_StepFromASoundState :
    Sound (withWork [.line ⟨0, .A, .lit 3, .lit 5⟩]) ∧
    (∃ t, step (withWork [.line ⟨0, .A, .lit 3, .lit 5⟩]) = .next t ∧ t.slots[0]? = some ⟨0, 15⟩) :=
  ⟨witness_ResetIsSound, _, rfl, by decide⟩

/-- Both clauses: a line, and a check of three assigned slots, at the head of well-formed work. -/
theorem witness_LineOrCheckOfWellFormedWorkCompletes :
    (withWork [.line ⟨0, .A, .lit 3, .lit 5⟩]).workWf = true ∧
    ({ withWork [.check 0 (.lit 3) (.lit 5)] with slots := [⟨0, 15⟩, ⟨0, 15⟩, ⟨0, 15⟩] } : State).workWf = true := by
  decide

/-- P2 and P3. -/
theorem witness_ProgramRunIsTheFoldOfItsLines :
    programWf [.xchk 0 (.lit 0x123456789ABCDEF0) (.lit 0x0FEDCBA987654321), .call ⟨3, .N, .hi 2, .lo 0⟩] = true := by
  decide

/-- The clauses of the check: equal pairs, and pairs that differ in `lo` only. -/
theorem witness_CrossCheckReportsWhatDiverged :
    (Src.lit 3).resolve [⟨0, 15⟩, ⟨0, 15⟩, ⟨0, 14⟩] = some 3 ∧
    ¬((⟨0, 15⟩ : Response) = ⟨0, 15⟩ ∧ (⟨0, 15⟩ : Response) = ⟨0, 14⟩) ∧
    (divergence 3 5 ⟨0, 15⟩ ⟨0, 15⟩ ⟨0, 14⟩).loDiffers = true ∧
    (divergence 3 5 ⟨0, 15⟩ ⟨0, 15⟩ ⟨0, 14⟩).hiDiffers = false := by decide

theorem witness_PortLevelCallReadsTheCallsResult :
    (withWork [.driveA .A 3, .driveB .A 5, .wait (Config.tPD .A), .readBoth .A]).workWf = true ∧
    Config.tPD .A ≤ Config.tPD .A := ⟨rfl, Nat.le_refl _⟩

theorem witness_ThreeUnitsSettleTogether :
    ∀ u, Config.tPD u ≤ Config.tPD .A + Config.tPD .B + Config.tPD .N := by
  intro u
  cases u <;> omega

/-- A moving group at the last tick before its bound, a settled one whose inputs are driven anew, and one whose
input keeps its level. -/
theorem witness_EarlyReadingIsAFreeValue :
    (movingA.ports.group .A).a = some 3 ∧ (movingA.ports.group .A).b = some 5 ∧
    (movingA.ports.group .A).settle = .moving 0 ∧ 0 + Config.tPDLessOne .A < Config.tPD .A ∧
    (settledA.ports.group .A).a ≠ some 4 ∧ (settledA.ports.group .A).b ≠ some 4 ∧
    (settledA.ports.group .A).a.isSome = true ∧ (settledA.ports.group .A).b.isSome = true ∧
    (settledA.ports.group .A).a = some 3 ∧ (settledA.ports.group .A).b = some 5 :=
  ⟨rfl, rfl, rfl, by rw [Nat.zero_add]; exact Nat.lt_succ_self _, by decide, by decide, rfl, rfl, rfl, rfl⟩

/-- Either input undriven. -/
theorem witness_UndrivenUnitCannotBeRead :
    (State.reset.ports.group .B).a = none ∧ ((State.reset.driveA .B 1).ports.group .B).b = none := by decide

theorem witness_SeparateReadingsAndInputChange :
    OutPort.hi ≠ OutPort.lo ∧ (settledA.ports.group .A).a = some 3 ∧ (settledA.ports.group .A).b = some 5 ∧
    (settledA.ports.group .A).settle = .settled ∧ (4 : Word) ≠ 3 ∧ (6 : Word) ≠ 5 := by
  decide

/-- A group not driven has no next state to read; a driven one has. -/
theorem witness_PortActionsTouchTheirOwnInputs : UnitId.N ≠ UnitId.A ∧ (settledA.ports.group .A).driven = true ∧
    ∃ t, perform (.readOne .A .lo) settledA = .next t ∧ t.words = [⟨.A, .lo, some 15, 0⟩] :=
  ⟨by decide, rfl, _, rfl, by decide⟩

theorem witness_WordByWordCallReadsTheCallsResult :
    (withWork [.driveA .B 3, .driveB .B 5, .readOne .B .lo, .wait (Config.tPD .B), .readOne .B .lo, .readOne .B .hi,
      .takePair .B]).workWf = true ∧ OutPort.lo ≠ OutPort.hi ∧ Config.tPD .B ≤ Config.tPD .B :=
  ⟨rfl, by decide, Nat.le_refl _⟩

/-- Read at once and after exactly the bound. -/
theorem witness_EarlyWordFreesThePairUntilReadAgain :
    (movingA.ports.group .A).a = some 3 ∧ (movingA.ports.group .A).b = some 5 ∧
    (movingA.ports.group .A).settle = .moving 0 ∧ Config.tPD .A ≤ 0 + Config.tPD .A ∧
    OutPort.lo ≠ OutPort.hi :=
  ⟨rfl, rfl, rfl, by rw [Nat.zero_add], by decide⟩

/-! ### The port level -/

/-- A stale word read before the call does not enter its pair (R25, R94). -/
theorem test_stale_word_is_left_behind :
    { settledA with words := [⟨.A, .hi, some 0, 0⟩, ⟨.A, .lo, some 15, 0⟩, ⟨.A, .hi, some 7, 0⟩] }.lastPair .A =
      some ⟨0, 15⟩ := by decide
/-- Words read with an input changed between them make no pair (R94, U3). -/
theorem test_words_of_two_calls_make_no_pair :
    { settledA with words := [⟨.A, .hi, some 0, 1⟩, ⟨.A, .lo, some 15, 0⟩] }.lastPair .A = none := by decide

end Sys2Proof.Tests
end

section
/-! SUPPORT. Every unit returns the exact product of its operands (spec/40_contract.md R41): the limb expansion of the
product, the sums of each datapath as numbers (spec/41_mul_a.md R56, spec/42_mul_b.md R66), and the contract for
`unitResult` and `exec`. -/

namespace Sys2Proof.Machine

/-! ### The contract as a number -/

/-- The product as the four partial products at their bit offsets (R49, R52). -/
theorem mul_toNat_eq_limbs (a b : Word) :
    a.toNat * b.toNat = (mulLimb (loLimb a) (loLimb b)).toNat +
      ((mulLimb (loLimb a) (hiLimb b)).toNat + (mulLimb (hiLimb a) (loLimb b)).toNat) * 2 ^ 32 +
      (mulLimb (hiLimb a) (hiLimb b)).toNat * 2 ^ 64 := by
  simp only [mulLimb_toNat]
  calc a.toNat * b.toNat
      = ((hiLimb a).toNat * 2 ^ 32 + (loLimb a).toNat) * ((hiLimb b).toNat * 2 ^ 32 + (loLimb b).toNat) := by
        rw [limbs_split, limbs_split]
    _ = _ := by ring

/-- A partial product leaves room for two more limbs (R52). -/
theorem mulLimb_toNat_le (x y : Limb) : (mulLimb x y).toNat ≤ 2 ^ 64 - 2 ^ 33 + 1 := by
  rw [mulLimb_toNat]
  exact limb_mul_le x y

/-- The product of two words has 128 bits (R44). -/
theorem mul_toNat_lt (a b : Word) : a.toNat * b.toNat < 2 ^ 128 := by
  rw [← wideProduct_toNat]
  exact (wideProduct a b).isLt

@[simp] theorem exactProduct_hi_toNat (a b : Word) :
    (exactProduct a b).hi.toNat = a.toNat * b.toNat / 2 ^ 64 := by
  have := mul_toNat_lt a b
  simp only [exactProduct, BitVec.toNat_ofNat]
  omega

@[simp] theorem exactProduct_lo_toNat (a b : Word) :
    (exactProduct a b).lo.toNat = a.toNat * b.toNat % 2 ^ 64 := by
  simp only [exactProduct, BitVec.toNat_ofNat, Nat.mod_mod]

/-- The value of a pair fixes the pair (R42). -/
theorem eq_exactProduct_of_value (r : Response) (a b : Word) (h : r.value = a.toNat * b.toNat) :
    r = exactProduct a b := by
  obtain ⟨hi, lo⟩ := r
  have hv : hi.toNat * 2 ^ 64 + lo.toNat = a.toNat * b.toNat := h
  have hlo := lo.isLt
  have hhi_eq : hi = (exactProduct a b).hi := by
    apply BitVec.eq_of_toNat_eq
    rw [exactProduct_hi_toNat]
    omega
  have hlo_eq : lo = (exactProduct a b).lo := by
    apply BitVec.eq_of_toNat_eq
    rw [exactProduct_lo_toNat]
    omega
  rw [hhi_eq, hlo_eq]

/-! ### MULA -/

/-- The low word and the two carry-outs hold the whole sum of the three low-word addends (R53). -/
theorem nodesA_lo_add_carries (a b : Word) :
    (nodesA a b).lo.toNat + ((nodesA a b).c1.toNat + (nodesA a b).c2.toNat) * 2 ^ 64 =
      (nodesA a b).p00.toNat + (nodesA a b).x01.toNat + (nodesA a b).x10.toNat := by
  have h1 := sum65_split (nodesA a b).p00 (nodesA a b).x01
  have h2 := sum65_split (nodesA a b).t1 (nodesA a b).x10
  rw [← nodesA_s1, ← nodesA_t1, ← nodesA_c1] at h1
  rw [← nodesA_s2, ← nodesA_lo, ← nodesA_c2] at h2
  linarith

/-- A cross term is its low limb at bit 32 of the low word and its high limb in the high word (R53, R54). -/
theorem atBit32_loLimb_add_hiLimb (p : Word) :
    (atBit32 (loLimb p)).toNat + (hiLimb p).toNat * 2 ^ 64 = p.toNat * 2 ^ 32 := by
  have := limbs_split p
  rw [atBit32_toNat]
  linarith

/-- The five addends of MULA's high word over its low word are the product (R56). -/
theorem nodesA_addends_value (a b : Word) :
    ((nodesA a b).p11.toNat + (nodesA a b).u01.toNat + (nodesA a b).u10.toNat + (nodesA a b).c1.toNat +
      (nodesA a b).c2.toNat) * 2 ^ 64 + (nodesA a b).lo.toNat = a.toNat * b.toNat := by
  have hprod := mul_toNat_eq_limbs a b
  rw [← nodesA_p00, ← nodesA_p01, ← nodesA_p10, ← nodesA_p11] at hprod
  have hlow := nodesA_lo_add_carries a b
  have h01 := atBit32_loLimb_add_hiLimb (nodesA a b).p01
  have h10 := atBit32_loLimb_add_hiLimb (nodesA a b).p10
  rw [← nodesA_x01, ← nodesA_u01] at h01
  rw [← nodesA_x10, ← nodesA_u10] at h10
  omega

/-- The additions of the high word do not wrap: the product has no bit 128 (R54, R56). -/
theorem nodesA_hi_toNat (a b : Word) :
    (nodesA a b).hi.toNat = (nodesA a b).p11.toNat + (nodesA a b).u01.toNat + (nodesA a b).u10.toNat +
      (nodesA a b).c1.toNat + (nodesA a b).c2.toNat := by
  have hval := nodesA_addends_value a b
  have hlt := mul_toNat_lt a b
  simp only [nodesA_hi, BitVec.toNat_add, zext_toNat, zextCarry_toNat]
  omega

/-- MULA is exact (R56). -/
theorem mulA_value (a b : Word) : (mulA a b).value = a.toNat * b.toNat := by
  rw [Response.value, mulA_hi, mulA_lo, nodesA_hi_toNat, nodesA_addends_value]

/-! ### MULB -/

/-- A limb added to a partial product does not wrap (R65). -/
theorem mulLimb_add_zext_toNat (x y z : Limb) :
    (mulLimb x y + zext z).toNat = (mulLimb x y).toNat + z.toNat := by
  have := mulLimb_toNat_le x y
  have := z.isLt
  rw [BitVec.toNat_add, zext_toNat]
  omega

/-- Two limbs added to a partial product do not wrap either (R65). -/
theorem mulLimb_add_zext_add_zext_toNat (x y z w : Limb) :
    (mulLimb x y + zext z + zext w).toNat = (mulLimb x y).toNat + z.toNat + w.toNat := by
  have := mulLimb_toNat_le x y
  have := z.isLt
  have := w.isLt
  rw [BitVec.toNat_add, mulLimb_add_zext_toNat, zext_toNat]
  omega

theorem nodesB_t1_toNat (a b : Word) :
    (nodesB a b).t1.toNat = (nodesB a b).q10.toNat + (nodesB a b).k0.toNat :=
  mulLimb_add_zext_toNat _ _ _

theorem nodesB_t2_toNat (a b : Word) :
    (nodesB a b).t2.toNat = (nodesB a b).q01.toNat + (nodesB a b).w1.toNat :=
  mulLimb_add_zext_toNat _ _ _

theorem nodesB_hi_toNat (a b : Word) :
    (nodesB a b).hi.toNat = (nodesB a b).q11.toNat + (nodesB a b).w2.toNat + (nodesB a b).k2.toNat :=
  mulLimb_add_zext_add_zext_toNat _ _ _ _

theorem nodesB_lo_toNat (a b : Word) :
    (nodesB a b).lo.toNat = (nodesB a b).v1.toNat * 2 ^ 32 + (nodesB a b).w0.toNat := by
  rw [nodesB_lo, joinLimbs_toNat]

/-- MULB is exact: each column sum splits into its limb of the result and the carry of the next column (R66). -/
theorem mulB_value (a b : Word) : (mulB a b).value = a.toNat * b.toNat := by
  have hprod := mul_toNat_eq_limbs a b
  rw [← nodesB_t0, ← nodesB_q01, ← nodesB_q10, ← nodesB_q11] at hprod
  have h0 := limbs_split (nodesB a b).t0
  have h1 := limbs_split (nodesB a b).t1
  have h2 := limbs_split (nodesB a b).t2
  rw [← nodesB_k0, ← nodesB_w0] at h0
  rw [← nodesB_w2, ← nodesB_w1, nodesB_t1_toNat] at h1
  rw [← nodesB_k2, ← nodesB_v1, nodesB_t2_toNat] at h2
  rw [Response.value, mulB_hi, mulB_lo, nodesB_hi_toNat, nodesB_lo_toNat]
  linarith

/-! ### MULN, and every unit -/

theorem mulWide_value (a b : Word) : (mulWide a b).value = a.toNat * b.toNat := by
  rw [Response.value, mulWide_hi_toNat, mulWide_lo_toNat]
  omega

/-- MULN is exact on either strategy; the fallback is MULA's datapath (R71, R72, R73). -/
theorem mulN_value (wide : Bool) (a b : Word) : (mulN wide a b).value = a.toNat * b.toNat := by
  cases wide with
  | true => exact mulWide_value a b
  | false => exact mulA_value a b

/-- Every unit returns the exact product (R41). -/
theorem unitResult_eq_exactProduct (u : UnitId) (a b : Word) : unitResult u a b = exactProduct a b := by
  apply eq_exactProduct_of_value
  cases u with
  | A => exact mulA_value a b
  | B => exact mulB_value a b
  | N => exact mulN_value Config.hasWideMul a b

/-- A call completes and stores the exact product of its operands (R41, R98). -/
theorem exec_eq_exactProduct (i : Instr) (s : State) :
    exec i s = .next (s.completeCall i.unit i.opA i.opB (exactProduct i.opA i.opB)) := by
  rw [exec_eq, unitResult_eq_exactProduct]

end Sys2Proof.Machine
end

section
/-! Memory and ordering (spec/20_memory.md): calls do not order one another (R27). -/

namespace Sys2Proof.Machine

/-- Two calls one after the other store their own exact products in call order, whatever was there before (R27). -/
theorem exec_exec_slots (i j : Instr) (s : State) :
    ∃ t1 t2, exec i s = .next t1 ∧ exec j t1 = .next t2 ∧
      t2.slots = s.slots ++ [exactProduct i.opA i.opB, exactProduct j.opA j.opB] :=
  ⟨_, _, exec_eq_exactProduct i s, exec_eq_exactProduct j _, by
    simp only [completeCall_slots, List.append_assoc, List.singleton_append]⟩

/-- Settles O28: either order is two calls in sequence, and each stores the exact product of its own operands. -/
theorem callsDoNotOrderOneAnother : Obligations.CallsDoNotOrderOneAnother := by
  intro i j s
  obtain ⟨t1, t2, hi, hj, hslots⟩ := exec_exec_slots i j s
  obtain ⟨t1', t2', hj', hi', hslots'⟩ := exec_exec_slots j i s
  exact ⟨t1, t2, t1', t2', hi, hj, hj', hi', hslots, hslots'⟩

end Sys2Proof.Machine
end

section
/-! SUPPORT. The record decoder as the inverse of the encoder, and what a step does with a presented record
(spec/30_encoding.md R32, R35, R36, R39). -/

namespace Sys2Proof.Machine

/-! ### The decoder by unit code -/

/-- Every unit code is a unit's or 3 (R35). -/
theorem unitCode_cases (c : BitVec 2) : (∃ u : UnitId, c = u.code) ∨ c = 3 := by
  have hc : ∀ c : BitVec 2, c = 0 ∨ c = 1 ∨ c = 2 ∨ c = 3 := by decide
  obtain h | h | h | h := hc c
  · exact .inl ⟨.A, h⟩
  · exact .inl ⟨.B, h⟩
  · exact .inl ⟨.N, h⟩
  · exact .inr h

/-- A record with a unit's code is a call of that unit on the operand fields (R35). -/
theorem decode_of_reqUnit_eq_code (w : BitVec 130) (u : UnitId) (h : reqUnit w = u.code) :
    decode w = .ok (Instr.ofUnit u (reqA w) (reqB w)) := by
  rw [decode, h, ofCode_code]

/-- A record with unit code 3 is invalid (R36). -/
theorem decode_of_reqUnit_eq_three (w : BitVec 130) (h : reqUnit w = 3) : decode w = .error .unitCode := by
  rw [decode, h]
  rfl

/-- A record decodes to the call whose parts its three fields hold (R32, R35). -/
theorem decode_eq_ok_iff_fields (w : BitVec 130) (i : Instr) :
    decode w = .ok i ↔ reqUnit w = i.unit.code ∧ reqA w = i.opA ∧ reqB w = i.opB := by
  constructor
  · intro h
    obtain ⟨u, hu⟩ | hu := unitCode_cases (reqUnit w)
    · rw [decode_of_reqUnit_eq_code w u hu] at h
      cases h
      simp [hu]
    · rw [decode_of_reqUnit_eq_three w hu] at h
      cases h
  · rintro ⟨hu, ha, hb⟩
    rw [decode_of_reqUnit_eq_code w i.unit hu, ha, hb, ofUnit_parts]

/-- A record is the number its three fields make (R32). -/
theorem toNat_eq_fields (w : BitVec 130) :
    w.toNat = (reqUnit w).toNat * 2 ^ 128 + (reqA w).toNat * 2 ^ 64 + (reqB w).toNat := by
  rw [reqUnit_toNat, reqA_toNat, reqB_toNat]
  omega

/-- The decoder is the inverse of the encoder (R35). -/
theorem decode_eq_ok_iff_encode (w : BitVec 130) (i : Instr) : decode w = .ok i ↔ encode i = w := by
  rw [decode_eq_ok_iff_fields]
  constructor
  · rintro ⟨hu, ha, hb⟩
    apply BitVec.eq_of_toNat_eq
    rw [encode_toNat, toNat_eq_fields w, hu, ha, hb]
  · rintro rfl
    exact Laws.Fields.fields_of_record i

/-- An encoded call decodes to itself (R35). -/
@[simp] theorem decode_encode (i : Instr) : decode (encode i) = .ok i :=
  (decode_eq_ok_iff_encode _ i).mpr rfl

/-- Every operation is well formed: no operand is reserved (R34, R40). -/
@[simp] theorem wellFormed_eq_true (i : Instr) : i.wellFormed = true := by cases i <;> rfl

/-! ### A record at a step of the machine -/

/-- The byte form of a record decodes to what the record does (R39). -/
theorem decodeBytes_eq_decode (bs : List Byte) (w : BitVec 130) (hlen : bs.length = 17)
    (hval : natOfBytes bs = w.toNat) : decodeBytes bs = decode w := by
  rw [decodeBytes, if_pos hlen, hval, if_pos w.isLt, BitVec.ofNat_toNat, BitVec.setWidth_eq]

/-- A record at the head of well-formed work that decodes is run as its call, taken off the work (R36, R98). -/
theorem step_record_of_ok (s : State) (bs : List Byte) (rest : List HostItem) (i : Instr)
    (hw : s.work = .record bs :: rest) (hf : s.workWf = true) (hd : decodeBytes bs = .ok i) :
    step s = exec i s.popWork := by
  rw [step_of_wf s _ rest hw hf, perform, present, hd]

/-- A record at the head of well-formed work that does not decode is refused (R36, R88). -/
theorem step_record_of_error (s : State) (bs : List Byte) (rest : List HostItem) (e : Reject)
    (hw : s.work = .record bs :: rest) (hf : s.workWf = true) (hd : decodeBytes bs = .error e) :
    step s = .refused (.invalidRecord e) := by
  rw [step_of_wf s _ rest hw hf, perform, present, hd]

/-! ### The response record -/

/-- The response record as a number (R33). -/
@[simp] theorem encodeResponse_toNat (r : Response) : (encodeResponse r).toNat = r.value := by
  rw [encodeResponse, BitVec.toNat_append, ← Nat.shiftLeft_add_eq_or_of_lt r.lo.isLt, Nat.shiftLeft_eq,
    Response.value]

/-- `hi` stands in bits [127:64] (R33). -/
@[simp] theorem encodeResponse_hi (r : Response) : (encodeResponse r).extractLsb' 64 64 = r.hi :=
  BitVec.extractLsb'_append_eq_left

/-- `lo` stands in bits [63:0] (R33). -/
@[simp] theorem encodeResponse_lo (r : Response) : (encodeResponse r).extractLsb' 0 64 = r.lo :=
  BitVec.extractLsb'_append_eq_right

/-- A response record holds the pair and nothing else (R33). -/
@[simp] theorem decodeResponse_encodeResponse (r : Response) : decodeResponse (encodeResponse r) = r := by
  rw [decodeResponse, encodeResponse_hi, encodeResponse_lo]

/-- The value of the exact product is the product (R41). -/
@[simp] theorem exactProduct_value (a b : Word) : (exactProduct a b).value = a.toNat * b.toNat := by
  rw [Response.value, exactProduct_hi_toNat, exactProduct_lo_toNat]
  omega

end Sys2Proof.Machine
end

section
/-! Encoding (spec/30_encoding.md): the opcode map with its match-and-mask rows (R35), the records no unit answers
(R36), and the response record (R33). -/

namespace Sys2Proof.Machine

/-! ### The match-and-mask table -/

/-- The table row of a unit, said by its unit code: the mask keeps the unit field, the match value is the code in
that field (R35). -/
def tableRowOf (u : UnitId) : OpcodeRow where
  mnemonic := (Instr.ofUnit u 0 0).mnemonic
  mask := BitVec.allOnes 2 ++ 0#128
  pattern := u.code ++ 0#128

theorem opcodeTable_eq_tableRows : opcodeTable = [tableRowOf .A, tableRowOf .B, tableRowOf .N] := by decide

theorem exists_tableRowOf_of_mem (row : OpcodeRow) (h : row ∈ opcodeTable) : ∃ u, row = tableRowOf u := by
  simp only [opcodeTable_eq_tableRows, List.mem_cons, List.not_mem_nil, or_false] at h
  obtain h | h | h := h <;> exact ⟨_, h⟩

/-- The table's mask keeps the unit field of a record and clears the operand fields (R32, R35). -/
theorem and_unitMask (w : BitVec 130) : w &&& (BitVec.allOnes 2 ++ 0#128) = reqUnit w ++ 0#128 := by
  have hfields : reqUnit w ++ w.extractLsb' 0 128 = w := BitVec.extractLsb'_append_extractLsb'
  calc w &&& (BitVec.allOnes 2 ++ 0#128)
      = (reqUnit w ++ w.extractLsb' 0 128) &&& (BitVec.allOnes 2 ++ 0#128) := by rw [hfields]
    _ = reqUnit w ++ 0#128 := by rw [BitVec.and_append, BitVec.and_allOnes, BitVec.and_zero]

/-- A row hits the records with its unit's code (R35). -/
theorem tableRowOf_hit_iff (u : UnitId) (w : BitVec 130) :
    (tableRowOf u).hit w = true ↔ reqUnit w = u.code := by
  simp only [OpcodeRow.hit, tableRowOf, and_unitMask, beq_iff_eq]
  constructor
  · intro h
    have hu := congrArg (BitVec.extractLsb' 128 2) h
    rwa [BitVec.extractLsb'_append_eq_left, BitVec.extractLsb'_append_eq_left] at hu
  · intro h
    rw [h]

/-- The mnemonic names the unit and nothing else (R30). -/
theorem mnemonic_eq_iff_unit_eq (i j : Instr) : i.mnemonic = j.mnemonic ↔ i.unit = j.unit := by
  cases i <;> cases j <;> simp [Instr.mnemonic, Instr.unit]

/-- The records with a unit's code are those that decode to the row's mnemonic (R35). -/
theorem exists_decode_mnemonic_iff (u : UnitId) (w : BitVec 130) :
    (∃ i, decode w = .ok i ∧ i.mnemonic = (tableRowOf u).mnemonic) ↔ reqUnit w = u.code := by
  constructor
  · rintro ⟨i, hi, hm⟩
    have hunit : i.unit = u := by simpa using (mnemonic_eq_iff_unit_eq i _).mp hm
    obtain ⟨hu, -, -⟩ := (decode_eq_ok_iff_fields w i).mp hi
    rw [hu, hunit]
  · intro hu
    exact ⟨_, decode_of_reqUnit_eq_code w u hu, (mnemonic_eq_iff_unit_eq _ _).mpr (by simp)⟩

/-! ### The obligations -/

/-- Settles O3: the decoder by unit code, the decoder as inverse of the encoder, and the rows of the table as the
unit codes. -/
theorem recordDecoderAndEncoderAgree : Obligations.RecordDecoderAndEncoderAgree := by
  refine ⟨rfl, rfl, rfl, fun u a b => ?_, fun w => ⟨?_, ?_, ?_, ?_⟩,
    fun i => ⟨wellFormed_eq_true i, decode_encode i⟩, fun w i => (decode_eq_ok_iff_encode w i).mp, rfl,
    fun row hrow w => ?_⟩
  · simpa using encode_toNat (Instr.ofUnit u a b)
  · exact decode_of_reqUnit_eq_code w .A
  · exact decode_of_reqUnit_eq_code w .B
  · exact decode_of_reqUnit_eq_code w .N
  · exact decode_of_reqUnit_eq_three w
  · obtain ⟨u, rfl⟩ := exists_tableRowOf_of_mem row hrow
    rw [tableRowOf_hit_iff, exists_decode_mnemonic_iff]

/-- Settles O5: the call stores the exact product, whose record is its value. -/
theorem responseRecordIsTheProduct : Obligations.ResponseRecordIsTheProduct := by
  intro i s
  have hval := encodeResponse_toNat (exactProduct i.opA i.opB)
  exact ⟨_, exactProduct i.opA i.opB, exec_eq_exactProduct i s, completeCall_slots .., encodeResponse_hi _,
    encodeResponse_lo _, hval, hval.trans (exactProduct_value _ _), decodeResponse_encodeResponse _⟩

/-- Settles O8: any byte form of a record decodes as the record does, and the step follows the decoder. -/
theorem unitCodeThreeIsRefusedAndTheOthersRun : Obligations.UnitCodeThreeIsRefusedAndTheOthersRun := by
  intro w bs s rest hlen hval hw hf
  have hbytes := decodeBytes_eq_decode bs w hlen hval
  constructor
  · intro hthree
    have hd := decode_of_reqUnit_eq_three w hthree
    exact ⟨hd, step_record_of_error s bs rest _ hw hf (hbytes.trans hd)⟩
  · intro hne
    obtain ⟨u, hu⟩ := (unitCode_cases (reqUnit w)).resolve_right hne
    have hd := decode_of_reqUnit_eq_code w u hu
    have hstep := step_record_of_ok s bs rest _ hw hf (hbytes.trans hd)
    rw [exec_eq_exactProduct] at hstep
    exact ⟨_, _, hd, hstep, by simp⟩

end Sys2Proof.Machine
end

section
/-! SUPPORT. The laws of the exact product of two words (spec/40_contract.md R42, R44, R45, R46, R49), which every
unit inherits by R41. -/

namespace Sys2Proof.Machine

/-! ### The call and its pair -/

/-- A call of a unit completes and adds the exact product to the slots (R40, R41). -/
theorem exec_ofUnit_slots (u : UnitId) (a b : Word) (s : State) :
    ∃ t, exec (Instr.ofUnit u a b) s = .next t ∧ t.slots = s.slots ++ [exactProduct a b] :=
  ⟨_, exec_eq_exactProduct _ s, by simp⟩

/-- The exact product is the two halves of the 128-bit product (R41, R71). -/
theorem mulWide_eq_exactProduct (a b : Word) : mulWide a b = exactProduct a b :=
  eq_exactProduct_of_value _ a b (mulWide_value a b)

/-- Exchanging the operands gives the same pair (R45). -/
theorem exactProduct_comm (a b : Word) : exactProduct a b = exactProduct b a := by
  rw [exactProduct, exactProduct, Nat.mul_comm]

@[simp] theorem exactProduct_zero_right (a : Word) : exactProduct a 0 = ⟨0, 0⟩ :=
  (eq_exactProduct_of_value ⟨0, 0⟩ a 0 (by simp [Response.value])).symm

@[simp] theorem exactProduct_zero_left (b : Word) : exactProduct 0 b = ⟨0, 0⟩ := by
  rw [exactProduct_comm, exactProduct_zero_right]

@[simp] theorem exactProduct_one_right (a : Word) : exactProduct a 1 = ⟨0, a⟩ :=
  (eq_exactProduct_of_value ⟨0, a⟩ a 1 (by simp [Response.value])).symm

@[simp] theorem exactProduct_one_left (b : Word) : exactProduct 1 b = ⟨0, b⟩ := by
  rw [exactProduct_comm, exactProduct_one_right]

/-! ### The bound on the upper word -/

/-- The other operand is below `2^64`, so the upper word stays below this one unless it is 0 (R49). -/
theorem exactProduct_hi_le_left (a b : Word) : (exactProduct a b).hi.toNat ≤ a.toNat - 1 := by
  rw [exactProduct_hi_toNat]
  obtain ha | ha := Nat.eq_zero_or_pos a.toNat
  · simp [ha]
  · have hlt : a.toNat * b.toNat / 2 ^ 64 < a.toNat :=
      (Nat.div_lt_iff_lt_mul (by decide)).mpr (Nat.mul_lt_mul_of_pos_left b.isLt ha)
    omega

theorem exactProduct_hi_le_right (a b : Word) : (exactProduct a b).hi.toNat ≤ b.toNat - 1 := by
  rw [exactProduct_comm]
  exact exactProduct_hi_le_left b a

/-- No product exceeds that of both operands all ones (R44). -/
theorem mul_toNat_le (a b : Word) : a.toNat * b.toNat ≤ (2 ^ 64 - 1) ^ 2 := by
  rw [Nat.pow_two]
  exact Nat.mul_le_mul (Nat.le_sub_one_of_lt a.isLt) (Nat.le_sub_one_of_lt b.isLt)

/-- The upper word is at most `2^64 - 2` (R44). -/
theorem exactProduct_hi_le (a b : Word) : (exactProduct a b).hi.toNat ≤ 2 ^ 64 - 2 := by
  have := exactProduct_hi_le_left a b
  have := a.isLt
  omega

theorem exactProduct_allOnes_allOnes :
    exactProduct 0xFFFFFFFFFFFFFFFF 0xFFFFFFFFFFFFFFFF = ⟨0xFFFFFFFFFFFFFFFE, 1⟩ := by decide

/-- The bound is reached by both operands all ones only: each operand is above the upper word (R44). -/
theorem exactProduct_hi_eq_max_iff (a b : Word) :
    (exactProduct a b).hi = 0xFFFFFFFFFFFFFFFE ↔ a = 0xFFFFFFFFFFFFFFFF ∧ b = 0xFFFFFFFFFFFFFFFF := by
  constructor
  · intro h
    have hmax : (exactProduct a b).hi.toNat = 2 ^ 64 - 2 := congrArg BitVec.toNat h
    have ha := exactProduct_hi_le_left a b
    have hb := exactProduct_hi_le_right a b
    constructor <;> bv_omega
  · rintro ⟨rfl, rfl⟩
    rw [exactProduct_allOnes_allOnes]

/-! ### The arithmetic laws (R49) -/

theorem exactProduct_hi_eq_zero_iff (a b : Word) : (exactProduct a b).hi = 0 ↔ a.toNat * b.toNat < 2 ^ 64 := by
  rw [← BitVec.toNat_inj, exactProduct_hi_toNat]
  exact Nat.div_eq_zero_iff_lt (by decide)

/-- A product below `2^64` is the lower word (R49). -/
theorem exactProduct_lo_toNat_of_lt (a b : Word) (h : a.toNat * b.toNat < 2 ^ 64) :
    (exactProduct a b).lo.toNat = a.toNat * b.toNat := by
  rw [exactProduct_lo_toNat, Nat.mod_eq_of_lt h]

theorem mul_toNat_lt_of_small (a b : Word) (ha : a.toNat < 2 ^ 32) (hb : b.toNat < 2 ^ 32) :
    a.toNat * b.toNat < 2 ^ 64 :=
  calc a.toNat * b.toNat < 2 ^ 32 * 2 ^ 32 := Nat.mul_lt_mul'' ha hb
    _ = 2 ^ 64 := by decide

theorem twoPow_toNat (k : Nat) (hk : k ≤ 63) : (BitVec.ofNat 64 (2 ^ k)).toNat = 2 ^ k := by
  rw [BitVec.toNat_ofNat, Nat.mod_eq_of_lt (Nat.pow_lt_pow_right (by decide) (by omega))]

/-- Multiplying by `2^k` shifts the lower word left (R49). -/
theorem exactProduct_twoPow_lo (a : Word) (k : Nat) (hk : k ≤ 63) :
    (exactProduct a (BitVec.ofNat 64 (2 ^ k))).lo = a <<< k := by
  apply BitVec.eq_of_toNat_eq
  rw [exactProduct_lo_toNat, twoPow_toNat k hk, BitVec.toNat_shiftLeft, Nat.shiftLeft_eq]

/-- Multiplying by `2^k` moves the top `k` bits of the operand into the upper word (R49). -/
theorem exactProduct_twoPow_hi (a : Word) (k : Nat) (hk : k ≤ 63) :
    (exactProduct a (BitVec.ofNat 64 (2 ^ k))).hi = a >>> (64 - k) := by
  have hsplit : 2 ^ 64 = 2 ^ (64 - k) * 2 ^ k := by rw [← Nat.pow_add]; congr 1; omega
  apply BitVec.eq_of_toNat_eq
  rw [exactProduct_hi_toNat, twoPow_toNat k hk, BitVec.toNat_ushiftRight, Nat.shiftRight_eq_div_pow, hsplit,
    Nat.mul_div_mul_right _ _ (Nat.two_pow_pos k)]

/-- `a * (2^64 - 1) = (a - 1) * 2^64 + (2^64 - a)` (R49). -/
theorem exactProduct_allOnes (a : Word) (ha : 1 ≤ a.toNat) :
    (exactProduct a 0xFFFFFFFFFFFFFFFF).hi.toNat = a.toNat - 1 ∧
      (exactProduct a 0xFFFFFFFFFFFFFFFF).lo.toNat = 2 ^ 64 - a.toNat := by
  have hones : (0xFFFFFFFFFFFFFFFF : Word).toNat = 2 ^ 64 - 1 := rfl
  have := a.isLt
  rw [exactProduct_hi_toNat, exactProduct_lo_toNat, hones]
  omega

/-- The product is odd exactly when both operands are (R49). -/
theorem exactProduct_lo_parity (a b : Word) :
    (exactProduct a b).lo.getLsbD 0 = (a.getLsbD 0 && b.getLsbD 0) := by
  have hodd : a.toNat * b.toNat % 2 = 1 ↔ a.toNat % 2 = 1 ∧ b.toNat % 2 = 1 := by
    simp only [← Nat.odd_iff, Nat.odd_mul]
  simp only [BitVec.getLsbD, exactProduct_lo_toNat, Nat.testBit_zero,
    Nat.mod_mod_of_dvd _ (show 2 ∣ 2 ^ 64 by decide), hodd, Bool.decide_and]

/-- The product grows with its operands (R49). -/
theorem exactProduct_value_mono (a b a' b' : Word) (ha : a.toNat ≤ a'.toNat) (hb : b.toNat ≤ b'.toNat) :
    (exactProduct a b).value ≤ (exactProduct a' b').value := by
  rw [exactProduct_value, exactProduct_value]
  exact Nat.mul_le_mul ha hb

end Sys2Proof.Machine
end

section
/-! The contract (spec/40_contract.md): totality, exactness, uniqueness, range, commutativity, zero and identity,
cross-variant equality, and the arithmetic laws. -/

namespace Sys2Proof.Machine

/-- Settles O20: the pair is the two halves of the 128-bit product. -/
theorem everyCallIsExact : Obligations.EveryCallIsExact := by
  intro u a b s
  obtain ⟨t, hexec, hslots⟩ := exec_ofUnit_slots u a b s
  have hwide := mulWide_eq_exactProduct a b
  exact ⟨t, exactProduct a b, hexec, hslots, exactProduct_value a b, wideProduct a b, wideProduct_toNat a b,
    congrArg Response.hi hwide.symm, congrArg Response.lo hwide.symm⟩

/-- Settles O21: the value of a pair fixes the pair. -/
theorem contractFixesEveryResultBit : Obligations.ContractFixesEveryResultBit := by
  intro u a b s
  obtain ⟨t, hexec, hslots⟩ := exec_ofUnit_slots u a b s
  exact ⟨t, exactProduct a b, hexec, hslots, exactProduct_hi_toNat a b, exactProduct_lo_toNat a b,
    fun h l hvalue => (eq_exactProduct_of_value ⟨h, l⟩ a b hvalue).symm⟩

/-- Settles O22: the upper word is below each non-zero operand, so it reaches `2^64 - 2` for the largest pair only. -/
theorem highWordNeverReachesAllOnes : Obligations.HighWordNeverReachesAllOnes := by
  refine ⟨by norm_num, fun u a b s => ⟨mul_toNat_le a b, mul_toNat_lt a b, ?_⟩⟩
  obtain ⟨t, hexec, hslots⟩ := exec_ofUnit_slots u a b s
  have hle := exactProduct_hi_le a b
  refine ⟨t, exactProduct a b, hexec, hslots, ?_, hle, exactProduct_hi_eq_max_iff a b, ?_⟩
  · intro hones
    rw [hones] at hle
    exact absurd hle (by decide)
  · rintro ⟨rfl, rfl⟩
    rw [exactProduct_allOnes_allOnes]

/-- Settles O23: the exact product is commutative. -/
theorem callsAreCommutative : Obligations.CallsAreCommutative := by
  intro u a b s
  obtain ⟨t, hexec, hslots⟩ := exec_ofUnit_slots u a b s
  obtain ⟨t', hexec', hslots'⟩ := exec_ofUnit_slots u b a s
  exact ⟨t, t', hexec, hexec', by rw [hslots, hslots', exactProduct_comm]⟩

/-- Settles O24: the exact product by 0 and by 1, in either position. -/
theorem zeroAndIdentityLaws : Obligations.ZeroAndIdentityLaws := by
  intro u a s
  obtain ⟨t0, hexec0, hslots0⟩ := exec_ofUnit_slots u a 0 s
  obtain ⟨t1, hexec1, hslots1⟩ := exec_ofUnit_slots u a 1 s
  obtain ⟨t2, hexec2, hslots2⟩ := exec_ofUnit_slots u 0 a s
  obtain ⟨t3, hexec3, hslots3⟩ := exec_ofUnit_slots u 1 a s
  rw [exactProduct_zero_right] at hslots0
  rw [exactProduct_one_right] at hslots1
  rw [exactProduct_zero_left] at hslots2
  rw [exactProduct_one_left] at hslots3
  exact ⟨t0, t1, t2, t3, hexec0, hslots0, hexec1, hslots1, hexec2, hslots2, hexec3, hslots3⟩

/-- Settles O25: each of the three datapaths adds the exact product. -/
theorem threeVariantsAgree : Obligations.ThreeVariantsAgree := by
  intro a b s
  obtain ⟨tA, hexecA, hslotsA⟩ := exec_ofUnit_slots .A a b s
  obtain ⟨tB, hexecB, hslotsB⟩ := exec_ofUnit_slots .B a b s
  obtain ⟨tN, hexecN, hslotsN⟩ := exec_ofUnit_slots .N a b s
  exact ⟨tA, tB, tN, hexecA, hexecB, hexecN, hslotsA.trans hslotsB.symm, hslotsB.trans hslotsN.symm⟩

/-- Settles O27: every unit's result is the exact product, which obeys each law. -/
theorem arithmeticLawsOfTheProduct : Obligations.ArithmeticLawsOfTheProduct := by
  intro u a b
  simp only [unitResult_eq_exactProduct]
  refine ⟨fun ha hb => ?smallOperands, exactProduct_hi_eq_zero_iff a b, fun k hk => ?powerOfTwo,
    exactProduct_allOnes a, ?zeroTimesAllOnes, exactProduct_lo_parity a b, ?squareOfTopBit,
    ⟨mul_toNat_eq_limbs a b, fun x y => ⟨mulLimb_toNat x y, mulLimb_toNat_le x y⟩⟩,
    exactProduct_value_mono a b, fun ha hb => ?upperWordBound⟩
  case smallOperands =>
    have hlt := mul_toNat_lt_of_small a b ha hb
    exact ⟨(exactProduct_hi_eq_zero_iff a b).mpr hlt, exactProduct_lo_toNat_of_lt a b hlt⟩
  case powerOfTwo =>
    refine ⟨exactProduct_twoPow_lo a k hk, ?_⟩
    rw [exactProduct_twoPow_hi a k hk]
    split
    · subst k
      exact BitVec.ushiftRight_eq_zero (Nat.le_refl 64)
    · rfl
  case zeroTimesAllOnes =>
    rintro rfl
    exact exactProduct_zero_left _
  case squareOfTopBit => decide
  case upperWordBound =>
    have := exactProduct_hi_le_left a b
    have := exactProduct_hi_le_right a b
    omega

/-- Settles O19: a call of any unit completes and adds one pair, the exact product. -/
theorem everyCallCompletesWithOnePair : Obligations.EveryCallCompletesWithOnePair := by
  intro u a b s
  obtain ⟨t, hexec, hslots⟩ := exec_ofUnit_slots u a b s
  exact ⟨t, exactProduct a b, hexec, hslots⟩

end Sys2Proof.Machine
end

section
/-! SUPPORT. The contract of one unit as its instruction rule gives it (spec/41_mul_a.md R50, spec/42_mul_b.md R60,
spec/43_mul_n.md R70): the call, the output ports, the halves of the product and the corner cases. -/

namespace Sys2Proof.Machine

/-- Settled inputs show the exact product at the output ports, whatever else the ports hold (R16, R41). -/
theorem outputWords_of_settled (u : UnitId) (g : PortGroup) (a b : Word) (ha : g.a = some a) (hb : g.b = some b)
    (hs : g.settle = .settled) : outputWords u g = some (exactProduct a b) :=
  (outputWords_eq_some u g _).mpr ⟨a, b, ha, hb, hs, (unitResult_eq_exactProduct u a b).symm⟩

theorem exactProduct_of_zero (a b : Word) (h : a = 0 ∨ b = 0) : exactProduct a b = ⟨0, 0⟩ := by
  obtain rfl | rfl := h
  · exact exactProduct_zero_left b
  · exact exactProduct_zero_right a

/-- The call of any unit stores the pair its settled output ports show, which is the two halves of the 128-bit
product, with the corner cases that the three instruction rules share (R50, R60, R70). -/
theorem exec_ofUnit_contract (u : UnitId) (a b : Word) (s : State) :
    ∃ t r, exec (Instr.ofUnit u a b) s = .next t ∧ t.slots = s.slots ++ [r] ∧
      (∀ g : PortGroup, g.a = some a → g.b = some b → g.settle = .settled → outputWords u g = some r) ∧
      t.block = s.block ∧
      r.hi = (a.setWidth 128 * b.setWidth 128).extractLsb' 64 64 ∧
      r.lo = (a.setWidth 128 * b.setWidth 128).extractLsb' 0 64 ∧
      (a = 0 ∨ b = 0 → r = ⟨0, 0⟩) ∧ (b = 1 → r = ⟨0, a⟩) ∧ (a = 1 → r = ⟨0, b⟩) ∧
      (a = 0xFFFFFFFFFFFFFFFF → b = 0xFFFFFFFFFFFFFFFF → r = ⟨0xFFFFFFFFFFFFFFFE, 1⟩) := by
  have hwide := mulWide_eq_exactProduct a b
  refine ⟨_, exactProduct a b, exec_eq_exactProduct _ s, by simp, fun g => outputWords_of_settled u g a b,
    completeCall_block .., congrArg Response.hi hwide.symm, congrArg Response.lo hwide.symm,
    exactProduct_of_zero a b, ?_, ?_, ?_⟩
  · rintro rfl
    exact exactProduct_one_right a
  · rintro rfl
    exact exactProduct_one_left b
  · rintro rfl rfl
    exact exactProduct_allOnes_allOnes

end Sys2Proof.Machine
end

section
/-! MULA (spec/41_mul_a.md): the instruction rule (R50) and its nodes with the operands exchanged (R58). -/

namespace Sys2Proof.Machine

/-- Settles O15: the record decodes to the call, and the call has the contract of every unit. -/
theorem mulaDeliversTheProduct : Obligations.MulaDeliversTheProduct :=
  ⟨by decide, fun a b s => ⟨decode_encode (.mula a b), exec_ofUnit_contract .A a b s⟩⟩

/-! ### Exchanged operands -/

theorem mulLimb_comm (x y : Limb) : mulLimb x y = mulLimb y x := BitVec.mul_comm _ _

/-- MULA's result does not depend on the order of the operands (R45, R58). -/
theorem mulA_comm (a b : Word) : mulA a b = mulA b a := by
  have hresult := unitResult_eq_exactProduct .A
  exact (hresult a b).trans ((exactProduct_comm a b).trans (hresult b a).symm)

theorem nodesA_hi_comm (a b : Word) : (nodesA a b).hi = (nodesA b a).hi := by
  rw [← mulA_hi, mulA_comm, mulA_hi]

theorem nodesA_lo_comm (a b : Word) : (nodesA a b).lo = (nodesA b a).lo := by
  rw [← mulA_lo, mulA_comm, mulA_lo]

theorem nodesA_p00_comm (a b : Word) : (nodesA a b).p00 = (nodesA b a).p00 := mulLimb_comm _ _

/-- The cross terms exchange their roles (R52, R58). -/
theorem nodesA_p01_exchange (a b : Word) : (nodesA a b).p01 = (nodesA b a).p10 := mulLimb_comm _ _

/-- So do their low limbs in the low word (R53, R58). -/
theorem nodesA_x01_exchange (a b : Word) : (nodesA a b).x01 = (nodesA b a).x10 := by
  rw [nodesA_x01, nodesA_x10, nodesA_p01_exchange]

/-- So do their high limbs (R54, R58). -/
theorem nodesA_u01_exchange (a b : Word) : (nodesA a b).u01 = (nodesA b a).u10 := by
  rw [nodesA_u01, nodesA_u10, nodesA_p01_exchange]

/-- The carry-outs together are what the low word leaves of its three addends, so their sum does not depend on the
order in which the cross terms are added, though each of them may (R53, R58). -/
theorem nodesA_carries_comm (a b : Word) :
    (nodesA a b).c1.toNat + (nodesA a b).c2.toNat = (nodesA b a).c1.toNat + (nodesA b a).c2.toNat := by
  have hab := nodesA_lo_add_carries a b
  have hba := nodesA_lo_add_carries b a
  rw [nodesA_lo_comm, nodesA_p00_comm, nodesA_x01_exchange, ← nodesA_x01_exchange b a] at hab
  omega

/-- Settles O31: the cross terms exchange roles, and the carry-outs' sum and the result are symmetric. -/
theorem mulaNodesExchangeTheirRoles : Obligations.MulaNodesExchangeTheirRoles :=
  ⟨by decide, fun a b => ⟨mulA_comm b a, nodesA_p01_exchange b a, (nodesA_p01_exchange a b).symm,
    nodesA_x01_exchange b a, (nodesA_x01_exchange a b).symm, nodesA_u01_exchange b a,
    (nodesA_u01_exchange a b).symm, nodesA_carries_comm b a, nodesA_lo_comm b a, nodesA_hi_comm b a⟩⟩

end Sys2Proof.Machine
end

section
/-! MULB (spec/42_mul_b.md): the bounds of its three sums (R65) and the instruction rule (R60). -/

namespace Sys2Proof.Machine

/-! ### The bounds of the sums -/

/-- The upper limb of a product of two limbs is at most `2^32 - 2` (R65). -/
theorem hiLimb_mulLimb_toNat_le (x y : Limb) : (hiLimb (mulLimb x y)).toNat ≤ 2 ^ 32 - 2 := by
  have := mulLimb_toNat_le x y
  rw [hiLimb_toNat]
  omega

/-- The sum of the cross term and the carry word of column 0 (R63, R65). -/
theorem nodesB_q10_add_k0_le (a b : Word) :
    (nodesB a b).q10.toNat + (nodesB a b).k0.toNat ≤ 2 ^ 64 - 2 ^ 32 - 1 := by
  have hq : (nodesB a b).q10.toNat ≤ 2 ^ 64 - 2 ^ 33 + 1 := mulLimb_toNat_le _ _
  have hk : (nodesB a b).k0.toNat ≤ 2 ^ 32 - 2 := hiLimb_mulLimb_toNat_le _ _
  omega

/-- The sum of the other cross term and the running word of column 1 (R63, R65). -/
theorem nodesB_q01_add_w1_le (a b : Word) :
    (nodesB a b).q01.toNat + (nodesB a b).w1.toNat ≤ 2 ^ 64 - 2 ^ 32 := by
  have hq : (nodesB a b).q01.toNat ≤ 2 ^ 64 - 2 ^ 33 + 1 := mulLimb_toNat_le _ _
  have hw := (nodesB a b).w1.isLt
  omega

/-- The three addends of the upper word are exactly that word of the product, whose bound is R44's (R64, R65). -/
theorem nodesB_q11_add_w2_add_k2_le (a b : Word) :
    (nodesB a b).q11.toNat + (nodesB a b).w2.toNat + (nodesB a b).k2.toNat ≤ 2 ^ 64 - 2 := by
  rw [← nodesB_hi_toNat, ← mulB_hi, eq_exactProduct_of_value _ a b (mulB_value a b)]
  exact exactProduct_hi_le a b

/-! ### The instruction rule -/

/-- Settles O16: the record decodes to the call, no sum wraps, and the call has the contract of every unit. -/
theorem mulbDeliversTheProduct : Obligations.MulbDeliversTheProduct :=
  fun a b s => ⟨decode_encode (.mulb a b), nodesB_q10_add_k0_le a b, nodesB_q01_add_w1_le a b,
    nodesB_q11_add_w2_add_k2_le a b, exec_ofUnit_contract .B a b s⟩

end Sys2Proof.Machine
end

section
/-! MULN (spec/43_mul_n.md): the instruction rule (R70) and the two strategies it may be built on (R71 to R73). -/

namespace Sys2Proof.Machine

/-- Settles O17: the record decodes to the call, and the call has the contract of every unit. -/
theorem mulnDeliversTheProduct : Obligations.MulnDeliversTheProduct :=
  fun a b s => ⟨decode_encode (.muln a b), exec_ofUnit_contract .N a b s⟩

/-- MULN returns the exact product on either strategy (R73). -/
theorem mulN_eq_exactProduct (wide : Bool) (a b : Word) : mulN wide a b = exactProduct a b :=
  eq_exactProduct_of_value _ a b (mulN_value wide a b)

/-- Settles O33: the exact product is the result of both strategies and what a call stores. -/
theorem mulnStrategyIsInvisible : Obligations.MulnStrategyIsInvisible := by
  intro wide a b s
  constructor
  · rw [mulN_eq_exactProduct, mulN_eq_exactProduct]
  · rw [mulN_eq_exactProduct]
    exact exec_eq_exactProduct (.muln a b) s

end Sys2Proof.Machine
end

section
/-! Exceptions (spec/60_exceptions.md): the set of exceptions is empty (R80). -/

namespace Sys2Proof.Machine

/-- Settles O14: every call completes by the equation of `exec`; a fault that a step could end in would be a value of
`Fault`, which has no constructor. -/
theorem nothingRaisesAFault : Obligations.NothingRaisesAFault := by
  constructor
  · intro i s
    exact ⟨_, exec_eq i s⟩
  · intro s f _
    cases f

end Sys2Proof.Machine
end

section
/-! SUPPORT. The byte forms of records (spec/30_encoding.md R39): each byte by its place, and the decoder of bytes as
the inverse of the encoder. -/

namespace Sys2Proof.Machine

/-! ### Bytes by place -/

/-- Byte `k` of a number (R39). -/
theorem bytesOfNat_getElem? (n v k : Nat) (hk : k < n) :
    (bytesOfNat n v)[k]? = some (BitVec.ofNat 8 (v / 256 ^ k)) := by
  induction n generalizing v k with
  | zero => cases hk
  | succ n ih =>
    cases k with
    | zero => simp [bytesOfNat]
    | succ k =>
      rw [bytesOfNat, List.getElem?_cons_succ, ih _ _ (by omega), Nat.div_div_eq_div_mul, Nat.pow_succ']

/-- Byte `k` of a record is its bits [8k+7:8k] (R39). -/
theorem bytesOfNat_toNat_getElem? {m : Nat} (w : BitVec m) (n k : Nat) (hk : k < n) :
    (bytesOfNat n w.toNat)[k]? = some (w.extractLsb' (8 * k) 8) := by
  have hpow : 256 ^ k = 2 ^ (8 * k) := by rw [Nat.pow_mul]
  rw [bytesOfNat_getElem? n _ k hk, hpow, BitVec.extractLsb', Nat.shiftRight_eq_div_pow]

/-! ### The byte form of a request -/

@[simp] theorem encodeBytes_length (i : Instr) : (encodeBytes i).length = 17 := bytesOfNat_length 17 _

/-- The byte form of a call holds its record (R39). -/
theorem natOfBytes_encodeBytes (i : Instr) : natOfBytes (encodeBytes i) = (encode i).toNat := by
  rw [encodeBytes, natOfBytes_bytesOfNat]
  exact Nat.mod_eq_of_lt ((encode i).isLt.trans (by norm_num))

/-- The byte form of a call decodes to the call (R39). -/
@[simp] theorem decodeBytes_encodeBytes (i : Instr) : decodeBytes (encodeBytes i) = .ok i := by
  rw [decodeBytes_eq_decode _ (encode i) (encodeBytes_length i) (natOfBytes_encodeBytes i), decode_encode]

/-- Bytes that decode are 17 bytes of a record that decodes (R39). -/
theorem decodeBytes_ok_spec (bs : List Byte) (i : Instr) (h : decodeBytes bs = .ok i) :
    bs.length = 17 ∧ natOfBytes bs < 2 ^ 130 ∧ decode (BitVec.ofNat 130 (natOfBytes bs)) = .ok i := by
  unfold decodeBytes at h
  split at h
  · split at h
    · exact ⟨‹_›, ‹_›, h⟩
    · cases h
  · cases h

/-- Bytes that decode are the byte form of what they decode to (R39). -/
theorem encodeBytes_of_decodeBytes (bs : List Byte) (i : Instr) (h : decodeBytes bs = .ok i) :
    encodeBytes i = bs := by
  obtain ⟨hlen, hlt, hdec⟩ := decodeBytes_ok_spec bs i h
  have hrec := (decode_eq_ok_iff_encode _ i).mp hdec
  rw [encodeBytes, hrec, BitVec.toNat_ofNat, Nat.mod_eq_of_lt hlt, ← hlen, bytesOfNat_natOfBytes]

/-- The last byte of a request is its unit code (R32, R39). -/
theorem encode_extractLsb'_byte16 (i : Instr) : (encode i).extractLsb' 128 8 = i.unit.code.setWidth 8 := by
  have hval := encode_toNat i
  have ha := i.opA.isLt
  have hb := i.opB.isLt
  have hu := i.unit.code.isLt
  apply BitVec.eq_of_toNat_eq
  rw [BitVec.extractLsb'_toNat, Nat.shiftRight_eq_div_pow, BitVec.toNat_setWidth]
  omega

/-! ### Malformed byte forms -/

/-- Another length than 17 is invalid (log 11). -/
theorem decodeBytes_of_length_ne (bs : List Byte) (h : bs.length ≠ 17) :
    decodeBytes bs = .error (.length bs.length) := if_neg h

/-- The last byte is what stands above the two operands (R39). -/
theorem byte16_toNat (bs : List Byte) (b : Byte) (hlen : bs.length = 17) (hb : bs[16]? = some b) :
    b.toNat = natOfBytes bs / 2 ^ 128 := by
  have hlt := natOfBytes_lt bs
  rw [← bytesOfNat_natOfBytes bs, hlen, bytesOfNat_getElem? 17 _ 16 (by omega), Option.some_inj] at hb
  rw [hlen] at hlt
  rw [← hb, BitVec.toNat_ofNat]
  omega

/-- A last byte above 3 is invalid (R39, U9). -/
theorem decodeBytes_of_byte16_gt (bs : List Byte) (b : Byte) (hlen : bs.length = 17) (hb : bs[16]? = some b)
    (h3 : 3 < b.toNat) : decodeBytes bs = .error (.byte16 b.toNat) := by
  have hbyte := byte16_toNat bs b hlen hb
  rw [decodeBytes, if_pos hlen, if_neg (by omega), hbyte]

/-! ### The byte form of a response, and the table's numbering -/

@[simp] theorem encodeResponseBytes_length (r : Response) : (encodeResponseBytes r).length = 16 :=
  bytesOfNat_length 16 _

/-- The byte form of a response reads back as the pair (R39). -/
@[simp] theorem decodeResponseBytes_encodeResponseBytes (r : Response) :
    decodeResponseBytes (encodeResponseBytes r) = some r := by
  have hval : natOfBytes (encodeResponseBytes r) = (encodeResponse r).toNat := by
    rw [encodeResponseBytes, natOfBytes_bytesOfNat]
    exact Nat.mod_eq_of_lt (encodeResponse r).isLt
  rw [decodeResponseBytes, if_pos (encodeResponseBytes_length r), hval, BitVec.ofNat_toNat, BitVec.setWidth_eq,
    decodeResponse_encodeResponse]

/-- The bytes of a record in the opcode table's numbering are its byte form (log 19). -/
theorem tableBytes_encode (i : Instr) : tableBytes 136 (encode i).toNat = encodeBytes i := by
  rw [tableBytes, Nat.mod_eq_of_lt ((encode i).isLt.trans (by norm_num))]
  rfl

/-! ### The work after a step -/

/-- Taking the first item off the work leaves the rest of it. -/
theorem popWork_eq_of_work (s : State) (it : HostItem) (rest : List HostItem) (hw : s.work = it :: rest) :
    s.popWork = { s with work := rest } := by
  rw [State.popWork, hw, List.tail_cons]

end Sys2Proof.Machine
end

section
/-! Encoding (spec/30_encoding.md): the byte forms of records (R39), the written records, and the steps that present
them. -/

namespace Sys2Proof.Machine

/-- Settles O4: each byte is a field of the record, and the byte decoder is the inverse of the byte encoder. -/
theorem byteFormOfRequestRoundTrips : Obligations.ByteFormOfRequestRoundTrips := by
  refine ⟨fun i => ⟨encodeBytes_length i, fun k hk => ?_, ?_, decodeBytes_encodeBytes i⟩,
    encodeBytes_of_decodeBytes⟩
  · exact bytesOfNat_toNat_getElem? (encode i) 17 k (by omega)
  · rw [← encode_extractLsb'_byte16]
    exact bytesOfNat_toNat_getElem? (encode i) 17 16 (by omega)

/-- Settles O6: the bytes of the record `hi ‖ lo` by place. -/
theorem byteFormOfResponseRoundTrips : Obligations.ByteFormOfResponseRoundTrips := by
  refine ⟨fun r => ⟨encodeResponseBytes_length r, fun k hk => ⟨?_, ?_⟩,
    decodeResponseBytes_encodeResponseBytes r⟩, fun bs hlen => if_neg hlen⟩
  · rw [encodeResponseBytes, bytesOfNat_toNat_getElem? _ 16 k (by omega), encodeResponse,
      BitVec.extractLsb'_append_eq_of_add_le (by omega)]
  · have hbit : 8 * (8 + k) - 64 = 8 * k := by omega
    rw [encodeResponseBytes, bytesOfNat_toNat_getElem? _ 16 (8 + k) (by omega), encodeResponse,
      BitVec.extractLsb'_append_eq_of_le (by omega), hbit]

/-- Settles O9: the decoder refuses both by name, and the step follows the decoder. -/
theorem malformedByteFormsAreRefused : Obligations.MalformedByteFormsAreRefused := by
  intro bs s rest hw hf
  constructor
  · intro hlen
    exact step_record_of_error s bs rest _ hw hf (decodeBytes_of_length_ne bs hlen)
  · intro b hlen hb h3
    exact step_record_of_error s bs rest _ hw hf (decodeBytes_of_byte16_gt bs b hlen hb h3)

/-- Settles O2: the decoder on seven records and seventeen bytes. -/
theorem writtenRecordsDecode : Obligations.WrittenRecordsDecode := by
  unfold Obligations.WrittenRecordsDecode
  decide

/-- Settles O10: the step follows the decoder. -/
theorem stepRunsThePresentedRecord : Obligations.StepRunsThePresentedRecord := by
  intro s bs rest i hw hf hd
  rw [step_record_of_ok s bs rest i hw hf hd, popWork_eq_of_work s _ rest hw]

/-- Settles O11: the placed bytes are the byte form of the call, and are all there is to do. -/
theorem placedRecordRunsNext : Obligations.PlacedRecordRunsNext := by
  intro i s
  constructor
  · rw [decodeTableWord, tableBytes_encode, decodeBytes_encodeBytes]
  · rw [State.withFetchWord, tableBytes_encode]
    exact step_record_of_ok _ (encodeBytes i) [] i rfl rfl (decodeBytes_encodeBytes i)

end Sys2Proof.Machine
end

section
/-! SUPPORT. What every host action does to the host's own data: it leaves the rest of the work, adds at most one
exact product to the slots, and keeps the work well formed (spec/30_encoding.md R37, spec/70_reset_and_hazards.md
R94, R98). -/

namespace Sys2Proof.Machine

/-! ### The frames of the readings -/

/-- Reading both words adds one pair and changes nothing else but the draws (R25, R94). -/
theorem readBoth_frame (s t : State) (u : UnitId) (h : s.readBoth u = .next t) :
    t.ports = s.ports ∧ t.slots = s.slots ∧ t.reports = s.reports ∧ t.work = s.work ∧ t.block = s.block ∧
      t.words = s.words ∧ ∃ r, t.readings = s.readings ++ [r] := by
  obtain ⟨r, -, rfl⟩ | ⟨-, rfl⟩ := readBoth_next_cases s t u h
  · exact ⟨rfl, rfl, rfl, rfl, rfl, rfl, r, rfl⟩
  · exact ⟨rfl, rfl, rfl, rfl, rfl, rfl, _, rfl⟩

/-- Reading one word adds one word and changes nothing else (R25, R94). -/
theorem readOne_frame (s t : State) (u : UnitId) (p : OutPort) (h : s.readOne u p = .next t) :
    t.ports = s.ports ∧ t.slots = s.slots ∧ t.reports = s.reports ∧ t.work = s.work ∧ t.block = s.block ∧
      t.readings = s.readings ∧ t.draws = s.draws ∧ ∃ w, t.words = w :: s.words := by
  obtain ⟨-, rfl⟩ := readOne_next_cases s t u p h
  exact ⟨rfl, rfl, rfl, rfl, rfl, rfl, rfl, _, rfl⟩

/-- Taking a pair adds one pair and changes nothing else but the draws (R25, R94). -/
theorem takePair_frame (s : State) (u : UnitId) :
    (s.takePair u).ports = s.ports ∧ (s.takePair u).slots = s.slots ∧ (s.takePair u).reports = s.reports ∧
      (s.takePair u).work = s.work ∧ (s.takePair u).block = s.block ∧ (s.takePair u).words = s.words ∧
      ∃ r, (s.takePair u).readings = s.readings ++ [r] := by
  obtain ⟨r, -, h⟩ | ⟨-, h⟩ := takePair_cases s u
  · rw [h]
    exact ⟨rfl, rfl, rfl, rfl, rfl, rfl, r, rfl⟩
  · rw [h]
    exact ⟨rfl, rfl, rfl, rfl, rfl, rfl, _, rfl⟩

/-! ### The work and the slots -/

/-- How many slots an action takes: a call takes the next one, nothing else takes any (R37). -/
def HostItem.slotsTaken : HostItem → Nat
  | .record _ => 1
  | .line _ => 1
  | _ => 0

/-- A host action leaves the work alone and adds the exact product of its call, if it makes one, to the slots
(R37, R41). -/
theorem perform_work_slots (it : HostItem) (s t : State) (h : perform it s = .next t) :
    t.work = s.work ∧ ∃ rs, t.slots = s.slots ++ rs ∧ rs.length = it.slotsTaken ∧
      ∀ r ∈ rs, ∃ a b, r = exactProduct a b := by
  obtain ⟨i, hi, hit⟩ | ⟨k, x, y, ds, rfl, rfl⟩ | ⟨u, v, rfl, rfl⟩ | ⟨u, v, rfl, rfl⟩ | ⟨n, rfl, rfl⟩ |
    ⟨u, rfl, hr⟩ | ⟨u, p, rfl, hr⟩ | ⟨u, rfl, rfl⟩ := perform_next_cases it s t h
  · have htaken : it.slotsTaken = 1 := by
      obtain ⟨bs, rfl, -⟩ | ⟨l, rfl⟩ := hit
      · rfl
      · rfl
    rw [exec_eq_exactProduct] at hi
    cases hi
    exact ⟨rfl, [exactProduct i.opA i.opB], rfl, htaken.symm, by simp⟩
  · exact ⟨rfl, [], by simp, rfl, by simp⟩
  · exact ⟨rfl, [], by simp, rfl, by simp⟩
  · exact ⟨rfl, [], by simp, rfl, by simp⟩
  · exact ⟨rfl, [], by simp, rfl, by simp⟩
  · obtain ⟨-, hslots, -, hwork, -⟩ := readBoth_frame s t u hr
    exact ⟨hwork, [], by simp [hslots], rfl, by simp⟩
  · obtain ⟨-, hslots, -, hwork, -⟩ := readOne_frame s t u p hr
    exact ⟨hwork, [], by simp [hslots], rfl, by simp⟩
  · obtain ⟨-, hslots, -, hwork, -⟩ := takePair_frame s u
    exact ⟨hwork, [], by simp [hslots], rfl, by simp⟩

/-- A step takes one item off the work and adds the exact product of its call, if it makes one (R37, R41, R98). -/
theorem step_work_slots (s t : State) (h : step s = .next t) :
    ∃ it rs, s.work = it :: t.work ∧ t.slots = s.slots ++ rs ∧ rs.length = it.slotsTaken ∧
      ∀ r ∈ rs, ∃ a b, r = exactProduct a b := by
  obtain ⟨it, rest, hw, -, hp⟩ := step_next_cases s t h
  obtain ⟨hwork, rs, hslots, hlen, hexact⟩ := perform_work_slots it s.popWork t hp
  rw [popWork_work, hw, List.tail_cons] at hwork
  exact ⟨it, rs, by rw [hw, hwork], hslots, hlen, hexact⟩

/-! ### Well-formed work -/

/-- What follows an action is well formed for the slots assigned after it (R37). -/
theorem itemsWf_tail (n : Nat) (it : HostItem) (rest : List HostItem) (h : itemsWf n (it :: rest) = true) :
    itemsWf (n + it.slotsTaken) rest = true := by
  cases it with
  | line l => exact (Bool.and_eq_true_iff.mp h).2
  | check k x y => exact (Bool.and_eq_true_iff.mp h).2
  | _ => exact h

/-- A line of well-formed work names the next slot, and its sources are well formed (R37). -/
theorem itemsWf_line (n : Nat) (l : Line) (rest : List HostItem) (h : itemsWf n (.line l :: rest) = true) :
    l.slot = n ∧ l.x.wf n = true ∧ l.y.wf n = true := by
  simp only [itemsWf, Bool.and_eq_true, beq_iff_eq] at h
  obtain ⟨⟨⟨hslot, hx⟩, hy⟩, -⟩ := h
  exact ⟨hslot, hx, hy⟩

/-- A check of well-formed work names three assigned slots, and its sources are well formed (R37, R38). -/
theorem itemsWf_check (n k : Nat) (x y : Src) (rest : List HostItem)
    (h : itemsWf n (.check k x y :: rest) = true) : k + 3 ≤ n ∧ x.wf n = true ∧ y.wf n = true := by
  simp only [itemsWf, Bool.and_eq_true, decide_eq_true_eq] at h
  obtain ⟨⟨⟨hk, hx⟩, hy⟩, -⟩ := h
  exact ⟨hk, hx, hy⟩

/-- A step leaves well-formed work (R37; log 12). -/
theorem step_workWf (s t : State) (h : step s = .next t) : t.workWf = true := by
  obtain ⟨-, -, -, hf, -⟩ := step_next_cases s t h
  obtain ⟨it, rs, hw, hslots, hlen, -⟩ := step_work_slots s t h
  rw [State.workWf, hw] at hf
  rw [State.workWf, hslots, List.length_append, hlen]
  exact itemsWf_tail _ it _ hf

/-- An action at the head of well-formed work that goes on is a step of the run, with the rest of the work left and
well formed (R37, R98). -/
theorem step_of_perform (s t : State) (it : HostItem) (rest : List HostItem) (hw : s.work = it :: rest)
    (hf : s.workWf = true) (hp : perform it s.popWork = .next t) :
    step s = .next t ∧ t.work = rest ∧ t.workWf = true := by
  have hstep : step s = .next t := (step_of_wf s it rest hw hf).trans hp
  obtain ⟨hwork, -⟩ := perform_work_slots it s.popWork t hp
  rw [popWork_work, hw, List.tail_cons] at hwork
  exact ⟨hstep, hwork, step_workWf s t hstep⟩

/-! ### Runs -/

/-- A run that goes on is a first step and a run from there (R98). -/
theorem run_succ_next_cases (k : Nat) (s t : State) (h : Host.Core.run Sys2Proof.core (k + 1) s = .next t) :
    ∃ s', step s = .next s' ∧ Host.Core.run Sys2Proof.core k s' = .next t := by
  cases hs : step s with
  | next s' =>
    rw [run_succ_of_next k s s' hs] at h
    exact ⟨s', rfl, h⟩
  | fault f => cases f
  | refused r =>
    rw [run_succ_of_refused k s r hs] at h
    cases h

/-- A longer run is a run from where a shorter one ends. -/
theorem run_add_of_next (j k : Nat) (s t : State) (h : Host.Core.run Sys2Proof.core j s = .next t) :
    Host.Core.run Sys2Proof.core (j + k) s = Host.Core.run Sys2Proof.core k t := by
  induction j generalizing s with
  | zero =>
    cases h
    rw [Nat.zero_add]
  | succ j ih =>
    obtain ⟨s', hs, hrun⟩ := run_succ_next_cases j s t h
    rw [Nat.add_right_comm, run_succ_of_next _ s s' hs, ih s' hrun]

/-- Every shorter run of a run that goes on is safe. -/
theorem safeRun_of_run (n k : Nat) (s t : State) (h : Host.Core.run Sys2Proof.core n s = .next t) (hk : k ≤ n) :
    SafeRun k s := by
  induction k generalizing n s with
  | zero => exact ⟨s, rfl⟩
  | succ k ih =>
    obtain ⟨n, rfl⟩ := Nat.exists_eq_add_of_le' (Nat.zero_lt_of_lt hk)
    obtain ⟨s', hs, hrun⟩ := run_succ_next_cases n s t h
    rw [SafeRun, run_succ_of_next k s s' hs]
    exact ih n s' hrun (by omega)

/-- Well-formed work stays well formed along a run (R37; log 12). -/
theorem run_workWf (k : Nat) (s t : State) (hf : s.workWf = true)
    (h : Host.Core.run Sys2Proof.core k s = .next t) : t.workWf = true := by
  induction k generalizing s with
  | zero =>
    cases h
    exact hf
  | succ k ih =>
    obtain ⟨s', hs, hrun⟩ := run_succ_next_cases k s t h
    exact ih s' (step_workWf s s' hs) hrun

end Sys2Proof.Machine
end

section
/-! SUPPORT. Lines and checks of test programs, and the run of a whole program (spec/30_encoding.md R37, R38,
spec/70_reset_and_hazards.md R98). -/

namespace Sys2Proof.Machine

/-! ### Sources -/

/-- A well-formed source resolves (R37). -/
theorem resolve_of_wf (slots : List Response) (x : Src) (h : x.wf slots.length = true) :
    ∃ a, x.resolve slots = some a := by
  cases x with
  | lit v =>
    have hv : v < 2 ^ 64 := of_decide_eq_true h
    exact ⟨_, if_pos hv⟩
  | hi k =>
    have hk : k < slots.length := of_decide_eq_true h
    exact ⟨slots[k].hi, by simp [Src.resolve, hk]⟩
  | lo k =>
    have hk : k < slots.length := of_decide_eq_true h
    exact ⟨slots[k].lo, by simp [Src.resolve, hk]⟩

/-- Later slots do not change what a source stands for (R37). -/
theorem resolve_append (slots rs : List Response) (x : Src) (a : Word) (h : x.resolve slots = some a) :
    x.resolve (slots ++ rs) = some a := by
  cases x with
  | lit v => exact h
  | hi k =>
    obtain ⟨r, hr, rfl⟩ := Option.map_eq_some_iff.mp h
    rw [Src.resolve, List.getElem?_append_left (List.getElem?_eq_some_iff.mp hr).1, hr, Option.map_some]
  | lo k =>
    obtain ⟨r, hr, rfl⟩ := Option.map_eq_some_iff.mp h
    rw [Src.resolve, List.getElem?_append_left (List.getElem?_eq_some_iff.mp hr).1, hr, Option.map_some]

/-! ### Lines and checks -/

/-- A line whose sources resolve is the call of its operation on them (R32, R37). -/
theorem performLine_of_resolve (l : Line) (s : State) (a b : Word) (hx : l.x.resolve s.slots = some a)
    (hy : l.y.resolve s.slots = some b) : performLine l s = exec (Instr.ofUnit l.op a b) s := by
  simp only [performLine, hx, hy, present, decodeBytes_encodeBytes]

/-- The check of an XCHK whose slots are assigned and whose sources resolve (R38, R82). -/
theorem hostCheck_of_resolve (k : Nat) (x y : Src) (s : State) (a b : Word) (ra rb rn : Response)
    (ha : s.slots[k]? = some ra) (hb : s.slots[k + 1]? = some rb) (hn : s.slots[k + 2]? = some rn)
    (hx : x.resolve s.slots = some a) (hy : y.resolve s.slots = some b) :
    hostCheck k x y s =
      if ra = rb ∧ rb = rn then .next s
      else .next { s with reports := s.reports ++ [divergence a b ra rb rn] } := by
  simp only [hostCheck, ha, hb, hn, hx, hy]

/-- A step on a line of well-formed work is the call of its operation on its resolved sources (R37, R98). -/
theorem step_line (s : State) (l : Line) (rest : List HostItem) (hw : s.work = .line l :: rest)
    (hf : s.workWf = true) :
    l.slot = s.slots.length ∧ ∃ a b, l.x.resolve s.slots = some a ∧ l.y.resolve s.slots = some b ∧
      step s = exec (Instr.ofUnit l.op a b) { s with work := rest } := by
  have hitems : itemsWf s.slots.length (.line l :: rest) = true := by rw [← hw]; exact hf
  obtain ⟨hslot, hxwf, hywf⟩ := itemsWf_line _ l rest hitems
  obtain ⟨a, hx⟩ := resolve_of_wf s.slots l.x hxwf
  obtain ⟨b, hy⟩ := resolve_of_wf s.slots l.y hywf
  refine ⟨hslot, a, b, hx, hy, ?_⟩
  rw [step_of_wf s _ rest hw hf, popWork_eq_of_work s _ rest hw]
  exact performLine_of_resolve l _ a b hx hy

/-- A step on a check of well-formed work compares three assigned slots (R38, R98). -/
theorem step_check (s : State) (k : Nat) (x y : Src) (rest : List HostItem) (hw : s.work = .check k x y :: rest)
    (hf : s.workWf = true) :
    ∃ a b ra rb rn, s.slots[k]? = some ra ∧ s.slots[k + 1]? = some rb ∧ s.slots[k + 2]? = some rn ∧
      step s = if ra = rb ∧ rb = rn then .next { s with work := rest }
        else .next { s with work := rest, reports := s.reports ++ [divergence a b ra rb rn] } := by
  have hitems : itemsWf s.slots.length (.check k x y :: rest) = true := by rw [← hw]; exact hf
  obtain ⟨hk, hxwf, hywf⟩ := itemsWf_check _ k x y rest hitems
  obtain ⟨a, hx⟩ := resolve_of_wf s.slots x hxwf
  obtain ⟨b, hy⟩ := resolve_of_wf s.slots y hywf
  have ha : s.slots[k]? = some s.slots[k] := List.getElem?_eq_getElem _
  have hb : s.slots[k + 1]? = some s.slots[k + 1] := List.getElem?_eq_getElem _
  have hn : s.slots[k + 2]? = some s.slots[k + 2] := List.getElem?_eq_getElem _
  refine ⟨a, b, _, _, _, ha, hb, hn, ?_⟩
  rw [step_of_wf s _ rest hw hf, popWork_eq_of_work s _ rest hw]
  exact hostCheck_of_resolve k x y { s with work := rest } a b _ _ _ ha hb hn hx hy

/-- The check marks `hi` when the three `hi` words are not all equal (R38, R82). -/
theorem divergence_hiDiffers_iff (a b : Word) (ra rb rn : Response) :
    (divergence a b ra rb rn).hiDiffers = true ↔ ¬(ra.hi = rb.hi ∧ rb.hi = rn.hi) := by
  simp only [divergence, Bool.not_eq_true', Bool.and_eq_false_iff, beq_eq_false_iff_ne, ne_eq, not_and_or]

/-- The check marks `lo` when the three `lo` words are not all equal (R38, R82). -/
theorem divergence_loDiffers_iff (a b : Word) (ra rb rn : Response) :
    (divergence a b ra rb rn).loDiffers = true ↔ ¬(ra.lo = rb.lo ∧ rb.lo = rn.lo) := by
  simp only [divergence, Bool.not_eq_true', Bool.and_eq_false_iff, beq_eq_false_iff_ne, ne_eq, not_and_or]

/-- Two pairs are equal when both words are, so of three pairs that are not all equal a word diverges. -/
theorem divergence_marks_a_word (a b : Word) (ra rb rn : Response) (h : ¬(ra = rb ∧ rb = rn)) :
    (divergence a b ra rb rn).hiDiffers = true ∨ (divergence a b ra rb rn).loDiffers = true := by
  rw [divergence_hiDiffers_iff, divergence_loDiffers_iff, ← not_and_or]
  rintro ⟨⟨hab, hbn⟩, lab, lbn⟩
  obtain ⟨ah, al⟩ := ra
  obtain ⟨bh, bl⟩ := rb
  obtain ⟨nh, nl⟩ := rn
  cases hab
  cases hbn
  cases lab
  cases lbn
  exact h ⟨rfl, rfl⟩

/-! ### Steps that are refused -/

/-- With nothing left to do the step is refused (R9; log 9). -/
theorem step_of_no_work (s : State) (hw : s.work = []) : step s = .refused .noCallPresented := by
  unfold step
  rw [hw]

/-- Ill-formed work, which is not empty, is refused before any call (R37, U7). -/
theorem step_of_illFormed (s : State) (hf : s.workWf = false) : step s = .refused .illFormedProgram := by
  unfold step
  cases hw : s.work with
  | nil =>
    rw [State.workWf, hw] at hf
    cases hf
  | cons it rest => simp only [hf, Bool.false_eq_true, if_false]

/-! ### The run of a program -/

/-- What running program lines leaves: the rest of the work, the slots, and no report, reading or word more. -/
structure RanLines (s : State) (rest : List HostItem) (slots : List Response) (t : State) : Prop where
  work : t.work = rest
  slots : t.slots = slots
  reports : t.reports = s.reports
  readings : t.readings = s.readings
  words : t.words = s.words
  block : t.block = s.block

theorem RanLines.trans {s t u : State} {rest rest' : List HostItem} {slots slots' : List Response}
    (h : RanLines s rest slots t) (h' : RanLines t rest' slots' u) : RanLines s rest' slots' u where
  work := h'.work
  slots := h'.slots
  reports := h'.reports.trans h.reports
  readings := h'.readings.trans h.readings
  words := h'.words.trans h.words
  block := h'.block.trans h.block

/-- A line whose sources are known adds the exact product of their values (R37, R41). -/
theorem step_line_ranLines (s : State) (l : Line) (rest : List HostItem) (a b : Word)
    (hw : s.work = .line l :: rest) (hf : s.workWf = true) (hx : l.x.resolve s.slots = some a)
    (hy : l.y.resolve s.slots = some b) :
    ∃ t, step s = .next t ∧ t.workWf = true ∧ RanLines s rest (s.slots ++ [exactProduct a b]) t := by
  obtain ⟨-, a', b', hx', hy', hstep⟩ := step_line s l rest hw hf
  obtain rfl : a = a' := Option.some.inj (hx.symm.trans hx')
  obtain rfl : b = b' := Option.some.inj (hy.symm.trans hy')
  rw [exec_eq_exactProduct] at hstep
  exact ⟨_, hstep, step_workWf s _ hstep, by constructor <;> simp⟩

/-- A check of three equal slots passes without a trace (R38, R47). -/
theorem step_check_ranLines (s : State) (k : Nat) (x y : Src) (rest : List HostItem) (r : Response)
    (hw : s.work = .check k x y :: rest) (hf : s.workWf = true) (h0 : s.slots[k]? = some r)
    (h1 : s.slots[k + 1]? = some r) (h2 : s.slots[k + 2]? = some r) :
    ∃ t, step s = .next t ∧ RanLines s rest s.slots t := by
  obtain ⟨a, b, ra, rb, rn, ha, hb, hn, hstep⟩ := step_check s k x y rest hw hf
  obtain rfl : r = ra := Option.some.inj (h0.symm.trans ha)
  obtain rfl : r = rb := Option.some.inj (h1.symm.trans hb)
  obtain rfl : r = rn := Option.some.inj (h2.symm.trans hn)
  rw [if_pos ⟨rfl, rfl⟩] at hstep
  exact ⟨_, hstep, by constructor <;> rfl⟩

/-- The three calls and the check of an XCHK add the exact product three times and report nothing (R38, R47). -/
theorem run_xchk (s : State) (k : Nat) (x y : Src) (rest : List HostItem) (a b : Word)
    (hw : s.work = (ProgLine.xchk k x y).expand ++ rest) (hf : s.workWf = true)
    (hx : x.resolve s.slots = some a) (hy : y.resolve s.slots = some b) :
    ∃ t, Host.Core.run Sys2Proof.core 4 s = .next t ∧
      RanLines s rest (s.slots ++ [exactProduct a b, exactProduct a b, exactProduct a b]) t := by
  obtain ⟨hk : k = s.slots.length, -⟩ := step_line s _ _ hw hf
  obtain ⟨s1, hs1, hf1, hr1⟩ := step_line_ranLines s _ _ a b hw hf hx hy
  obtain ⟨s2, hs2, hf2, hr2⟩ := step_line_ranLines s1 _ _ a b hr1.work hf1
    (by rw [hr1.slots]; exact resolve_append _ _ x a hx) (by rw [hr1.slots]; exact resolve_append _ _ y b hy)
  obtain ⟨s3, hs3, hf3, hr3⟩ := step_line_ranLines s2 _ _ a b hr2.work hf2
    (by rw [hr2.slots, hr1.slots, List.append_assoc]; exact resolve_append _ _ x a hx)
    (by rw [hr2.slots, hr1.slots, List.append_assoc]; exact resolve_append _ _ y b hy)
  have hslots : s3.slots = s.slots ++ [exactProduct a b, exactProduct a b, exactProduct a b] := by
    simp [hr3.slots, hr2.slots, hr1.slots]
  obtain ⟨t, ht, hr4⟩ := step_check_ranLines s3 k x y rest (exactProduct a b) hr3.work hf3
    (by simp [hslots, hk]) (by simp [hslots, hk]) (by simp [hslots, hk])
  refine ⟨t, ?_, hslots ▸ hr1.trans (hr2.trans (hr3.trans hr4))⟩
  rw [run_succ_of_next _ _ _ hs1, run_succ_of_next _ _ _ hs2, run_succ_of_next _ _ _ hs3,
    run_succ_of_next _ _ _ ht]
  rfl

/-- The run of one program line is one step of the fold (R37, R38, R98). -/
theorem run_progLine (s : State) (p : ProgLine) (rest : List HostItem) (hw : s.work = p.expand ++ rest)
    (hf : s.workWf = true) :
    ∃ t slots, Host.Core.run Sys2Proof.core p.expand.length s = .next t ∧ RanLines s rest slots t ∧
      ∀ ps, evalProgram s.slots (p :: ps) = evalProgram slots ps := by
  cases p with
  | call l =>
    obtain ⟨-, a, b, hx, hy, -⟩ := step_line s l rest hw hf
    obtain ⟨t, ht, -, hr⟩ := step_line_ranLines s l rest a b hw hf hx hy
    exact ⟨t, _, run_succ_of_next 0 s t ht, hr, fun ps => by simp only [evalProgram, hx, hy]⟩
  | xchk k x y =>
    obtain ⟨-, a, b, hx, hy, -⟩ := step_line s _ _ hw hf
    obtain ⟨t, ht, hr⟩ := run_xchk s k x y rest a b hw hf hx hy
    exact ⟨t, _, ht, hr, fun ps => by simp only [evalProgram, hx, hy]⟩

/-- The run of a program's lines from any slots is the fold from those slots (R98). -/
theorem run_expand (ps : List ProgLine) (s : State) (hw : s.work = expand ps) (hf : s.workWf = true) :
    ∃ t slots, Host.Core.run Sys2Proof.core (expand ps).length s = .next t ∧
      evalProgram s.slots ps = some slots ∧ RanLines s [] slots t := by
  induction ps generalizing s with
  | nil => exact ⟨s, s.slots, rfl, rfl, hw, rfl, rfl, rfl, rfl, rfl⟩
  | cons p ps ih =>
    obtain ⟨s', slots', hrun', hr', heval'⟩ := run_progLine s p (expand ps) hw hf
    obtain ⟨t, slots, hrun, heval, hr⟩ := ih s' hr'.work (run_workWf _ s s' hf hrun')
    refine ⟨t, slots, ?_, ?_, hr'.trans hr⟩
    · rw [expand, List.length_append, run_add_of_next _ _ s s' hrun', hrun]
    · rw [heval', ← hr'.slots, heval]

end Sys2Proof.Machine
end

section
/-! Test programs (spec/30_encoding.md R37, R38): sources, lines, the XCHK check, and the run of a program. -/

namespace Sys2Proof.Machine

/-- Settles O39: the run of the expansion is the fold, and every shorter run of it is safe. -/
theorem programRunIsTheFoldOfItsLines : Obligations.ProgramRunIsTheFoldOfItsLines := by
  intro p s hp
  obtain ⟨t, slots, hrun, heval, hr⟩ := run_expand p (s.load p) rfl hp
  exact ⟨t, slots, hrun, heval, hr.slots, hr.work, hr.reports, hr.readings, hr.words, hr.block,
    step_of_no_work t hr.work, fun k hk => safeRun_of_run _ k _ t hrun hk⟩

/-- Settles O12: the sources of a well-formed line resolve, and its call adds the exact product at the line's
slot. -/
theorem stepRunsTheResolvedLine : Obligations.StepRunsTheResolvedLine := by
  intro s l rest hw hf
  obtain ⟨hslot, a, b, hx, hy, hstep⟩ := step_line s l rest hw hf
  refine ⟨a, b, hx, hy, hstep, _, hstep.trans (exec_eq_exactProduct _ _), ?_⟩
  simp [hslot]

/-- Settles O38: a line is a call, and a check finds its slots assigned. -/
theorem lineOrCheckOfWellFormedWorkCompletes : Obligations.LineOrCheckOfWellFormedWorkCompletes := by
  rintro s it rest hw hf (⟨l, rfl⟩ | ⟨k, x, y, rfl⟩)
  · obtain ⟨-, a, b, -, -, hstep⟩ := step_line s l rest hw hf
    exact ⟨_, hstep.trans (exec_eq_exactProduct _ _), rfl, rfl, rfl, rfl⟩
  · obtain ⟨a, b, ra, rb, rn, -, -, -, hstep⟩ := step_check s k x y rest hw hf
    split at hstep
    · exact ⟨_, hstep, rfl, rfl, rfl, rfl⟩
    · exact ⟨_, hstep, rfl, rfl, rfl, rfl⟩

/-- Settles O37: the rest of well-formed work is well formed for the slots its first item leaves assigned. -/
theorem stepKeepsWorkWellFormed : Obligations.StepKeepsWorkWellFormed := step_workWf

/-- Settles O13: each form of source by its definition. -/
theorem sourcesResolve : Obligations.SourcesResolve := by
  intro slots
  refine ⟨fun v => ?_, fun k r hr => ⟨?_, ?_⟩⟩
  · rw [Src.resolve, if_pos v.isLt, BitVec.ofNat_toNat, BitVec.setWidth_eq]
  · rw [Src.resolve, hr, Option.map_some]
  · rw [Src.resolve, hr, Option.map_some]

/-- Settles O40: the first step checks the whole of the placed program against no slot. -/
theorem illFormedProgramIsRefusedBeforeAnyCall : Obligations.IllFormedProgramIsRefusedBeforeAnyCall :=
  fun p s hp => step_of_illFormed (s.load p) hp

/-- Settles O41: the check by its two branches. -/
theorem crossCheckReportsWhatDiverged : Obligations.CrossCheckReportsWhatDiverged := by
  intro s k x y a b ra rb rn ha hb hn hx hy
  have hcheck := hostCheck_of_resolve k x y s a b ra rb rn ha hb hn hx hy
  constructor
  · intro heq
    rw [perform, hcheck, if_pos heq]
  · intro hne
    exact ⟨divergence a b ra rb rn, by rw [perform, hcheck, if_neg hne], rfl, rfl,
      divergence_hiDiffers_iff a b ra rb rn, divergence_loDiffers_iff a b ra rb rn,
      divergence_marks_a_word a b ra rb rn hne⟩

end Sys2Proof.Machine
end

section
/-! SUPPORT. The invariant under each operation of the state (spec/10_state.md R16, spec/20_memory.md R24,
spec/70_reset_and_hazards.md R91, R94). -/

namespace Sys2Proof.Machine

/-! ### How the ports of a unit may move -/

/-- The two ways the inputs of a unit move on: an input change is counted, or the levels stand and a settled group
stays settled (R94). -/
def PortGroup.MovesTo (g g' : PortGroup) : Prop :=
  g.changes < g'.changes ∨
    (g'.changes = g.changes ∧ g'.a = g.a ∧ g'.b = g.b ∧ (g.settle = .settled → g'.settle = .settled))

/-- Settled inputs of the group are driven (R91, R94). -/
def PortGroup.Consistent (g : PortGroup) : Prop := g.settle = .settled → g.driven = true

theorem PortGroup.MovesTo.refl (g : PortGroup) : g.MovesTo g := .inr ⟨rfl, rfl, rfl, id⟩

theorem setInputs_movesTo (g : PortGroup) (a b : Option Word) : g.MovesTo (g.setInputs a b) := by
  by_cases h : g.a = a ∧ g.b = b
  · obtain ⟨rfl, rfl⟩ := h
    rw [setInputs_same]
    exact .refl g
  · rw [setInputs_changed g a b h]
    exact .inl (Nat.lt_succ_self _)

theorem setInputs_consistent (g : PortGroup) (a b : Option Word) (h : g.Consistent) :
    (g.setInputs a b).Consistent := by
  by_cases hab : g.a = a ∧ g.b = b
  · obtain ⟨rfl, rfl⟩ := hab
    rwa [setInputs_same]
  · rw [setInputs_changed g a b hab]
    intro hs
    cases hs

/-- Settling changes no level. -/
theorem PortGroup.MovesTo.settleNow {g g' : PortGroup} (h : g.MovesTo g') : g.MovesTo g'.settleNow := by
  obtain h | ⟨hc, ha, hb, -⟩ := h
  · exact .inl h
  · exact .inr ⟨hc, ha, hb, fun _ => rfl⟩

/-! ### Time at a group -/

/-- Time passes at driven inputs: they settle once the bound is reached, and the levels stand (R94, R95). -/
theorem elapse_settle_of_driven (u : UnitId) (n e : Nat) (g : PortGroup) (a b : Word) (ha : g.a = some a)
    (hb : g.b = some b) (hs : g.settle = .moving e) :
    (g.elapse u n).settle = if Config.tPD u ≤ e + n then .settled else .moving (e + n) := by
  simp only [PortGroup.elapse, ha, hb, hs]
  split
  · rfl
  · rfl

/-- Time leaves settled inputs as they are (R94). -/
theorem elapse_of_settled (u : UnitId) (n : Nat) (g : PortGroup) (hs : g.settle = .settled) :
    g.elapse u n = g := by
  obtain ⟨a, b, st, c⟩ := g
  cases hs
  cases a <;> cases b <;> rfl

theorem elapse_movesTo (u : UnitId) (n : Nat) (g : PortGroup) : g.MovesTo (g.elapse u n) :=
  .inr ⟨elapse_changes g u n, elapse_a g u n, elapse_b g u n, fun hs => by rw [elapse_of_settled u n g hs, hs]⟩

@[simp] theorem driven_elapse (u : UnitId) (n : Nat) (g : PortGroup) : (g.elapse u n).driven = g.driven := by
  rw [PortGroup.driven, elapse_a, elapse_b, PortGroup.driven]

/-- Inputs that are not both driven do not settle (R91). -/
theorem elapse_consistent (u : UnitId) (n : Nat) (g : PortGroup) (h : g.Consistent) :
    (g.elapse u n).Consistent := by
  intro hs
  rw [driven_elapse]
  unfold PortGroup.elapse at hs
  split at hs
  · rename_i a b e ha hb _
    rw [PortGroup.driven, ha, hb]
    rfl
  · exact h hs

/-! ### The ports under the invariant -/

/-- A word stays current while the ports of its unit move on (R16, R94). -/
theorem WordReading.Current.of_movesTo {s t : State} {w : WordReading} (h : w.Current s)
    (hm : (s.ports.group w.unit).MovesTo (t.ports.group w.unit)) : w.Current t := by
  intro v hv
  obtain ⟨hle, heq⟩ := h v hv
  obtain hlt | ⟨hc, ha, hb, hs⟩ := hm
  · exact ⟨by omega, fun h => by omega⟩
  · rw [hc, ha, hb]
    refine ⟨hle, fun h => ?_⟩
    obtain ⟨hset, hprod⟩ := heq h
    exact ⟨hs hset, hprod⟩

/-- The invariant allows the ports of every unit to move on (R16, R94). -/
theorem Sound.movePorts {s : State} (h : Sound s) (p : Ports)
    (hm : ∀ u, (s.ports.group u).MovesTo (p.group u)) (hc : ∀ u, (p.group u).Consistent) :
    Sound { s with ports := p } := by
  obtain ⟨hslots, -, ⟨hcur, hagree⟩, hread⟩ := h
  exact ⟨hslots, hc, ⟨fun w hw => (hcur w hw).of_movesTo (hm w.unit), hagree⟩, hread⟩

theorem Sound.group_consistent {s : State} (h : Sound s) (u : UnitId) : (s.ports.group u).Consistent := by
  obtain ⟨-, hports, -, -⟩ := h
  exact hports u

theorem Sound.setGroup {s : State} (h : Sound s) (u : UnitId) (g : PortGroup)
    (hm : (s.ports.group u).MovesTo g) (hc : g.Consistent) : Sound (s.setGroup u g) := by
  refine h.movePorts (s.ports.setGroup u g) (fun v => ?_) (fun v => ?_)
  · by_cases hv : v = u
    · subst hv
      rwa [group_setGroup_self]
    · rw [group_setGroup_of_ne _ _ _ _ hv]
      exact .refl _
  · by_cases hv : v = u
    · subst hv
      rwa [group_setGroup_self]
    · rw [group_setGroup_of_ne _ _ _ _ hv]
      exact h.group_consistent v

theorem Sound.driveA {s : State} (h : Sound s) (u : UnitId) (v : Word) : Sound (s.driveA u v) :=
  h.setGroup u _ (setInputs_movesTo _ _ _) (setInputs_consistent _ _ _ (h.group_consistent u))

theorem Sound.driveB {s : State} (h : Sound s) (u : UnitId) (v : Word) : Sound (s.driveB u v) :=
  h.setGroup u _ (setInputs_movesTo _ _ _) (setInputs_consistent _ _ _ (h.group_consistent u))

theorem Sound.wait {s : State} (h : Sound s) (n : Nat) : Sound (s.wait n) := by
  refine h.movePorts (s.ports.elapse n) (fun u => ?_) (fun u => ?_)
  · rw [group_elapse]
    exact elapse_movesTo u n _
  · rw [group_elapse]
    exact elapse_consistent u n _ (h.group_consistent u)

/-! ### Slots and readings under the invariant -/

theorem Sound.storeSlot {s : State} (h : Sound s) (a b : Word) : Sound (s.storeSlot (exactProduct a b)) := by
  obtain ⟨hslots, hrest⟩ := h
  refine ⟨fun r hr => ?_, hrest⟩
  obtain hr | hr := List.mem_append.mp hr
  · exact hslots r hr
  · exact ⟨a, b, List.mem_singleton.mp hr⟩

/-- A call drives its own inputs to the operands, settled, and stores their product (R41, R94; log 2). -/
theorem Sound.completeCall {s : State} (h : Sound s) (u : UnitId) (a b : Word) :
    Sound (s.completeCall u a b (exactProduct a b)) := by
  refine (h.setGroup u _ (setInputs_movesTo _ (some a) (some b)).settleNow fun _ => ?_).storeSlot a b
  rw [PortGroup.driven, settleNow_a, settleNow_b, setInputs_a, setInputs_b]
  rfl

theorem Sound.noteReading {s : State} (h : Sound s) (a b : Word) : Sound (s.noteReading (exactProduct a b)) := by
  obtain ⟨hslots, hports, hwords, hread⟩ := h
  refine ⟨hslots, hports, hwords, fun r hr => ?_⟩
  obtain hr | hr := List.mem_append.mp hr
  · exact hread r hr
  · exact .inl ⟨a, b, List.mem_singleton.mp hr⟩

/-- The free pair noted is the one the counter numbers (U3; log 5). -/
theorem Sound.noteFreeReading {s : State} (h : Sound s) : Sound s.noteFreeReading := by
  obtain ⟨hslots, hports, hwords, hread⟩ := h
  refine ⟨hslots, hports, hwords, fun r hr => ?_⟩
  obtain hr | hr := List.mem_append.mp hr
  · obtain hprod | ⟨n, hn, hfree⟩ := hread r hr
    · exact .inl hprod
    · exact .inr ⟨n, Nat.lt_succ_of_lt hn, hfree⟩
  · exact .inr ⟨s.draws, Nat.lt_succ_self _, List.mem_singleton.mp hr⟩

theorem Sound.readBoth {s t : State} (h : Sound s) (u : UnitId) (ht : s.readBoth u = .next t) : Sound t := by
  obtain ⟨r, hr, rfl⟩ | ⟨-, rfl⟩ := readBoth_next_cases s t u ht
  · obtain ⟨a, b, -, -, -, rfl⟩ := (outputWords_eq_some u _ r).mp hr
    rw [unitResult_eq_exactProduct]
    exact h.noteReading a b
  · exact h.noteFreeReading

/-! ### Words read one at a time under the invariant -/

/-- Two current words whose unit has not changed since are words of the product of its inputs (R24, R94). -/
theorem WordReading.Current.agree {s : State} {w x : WordReading} (hw : w.Current s) (hx : x.Current s)
    (hnow : w.changes = (s.ports.group w.unit).changes) : w.Agree x := by
  intro hunit hchanges v y hv hy
  obtain ⟨-, hwnow⟩ := hw v hv
  obtain ⟨-, hxnow⟩ := hx y hy
  rw [← hunit, ← hchanges] at hxnow
  obtain ⟨-, a, b, ha, hb, hvword⟩ := hwnow hnow
  obtain ⟨-, a', b', ha', hb', hyword⟩ := hxnow hnow
  obtain rfl : a = a' := Option.some.inj (ha.symm.trans ha')
  obtain rfl : b = b' := Option.some.inj (hb.symm.trans hb')
  exact ⟨a, b, hvword, hyword⟩

theorem WordReading.Agree.symm {w x : WordReading} (h : w.Agree x) : x.Agree w := by
  intro hunit hchanges v y hv hy
  obtain ⟨a, b, hyword, hvword⟩ := h hunit.symm hchanges.symm y v hy hv
  exact ⟨a, b, hvword, hyword⟩

/-- A current word read just now keeps the invariant: it agrees with every word that was noted (R24, R94). -/
theorem Sound.noteWord {s : State} (h : Sound s) (w : WordReading) (hw : w.Current s)
    (hnow : w.changes = (s.ports.group w.unit).changes) : Sound (s.noteWord w) := by
  obtain ⟨hslots, hports, ⟨hcur, hagree⟩, hread⟩ := h
  have hnew : ∀ x ∈ s.words, w.Agree x := fun x hx => hw.agree (hcur x hx) hnow
  refine ⟨hslots, hports, ⟨List.forall_mem_cons.mpr ⟨hw, hcur⟩,
    List.forall_mem_cons.mpr ⟨List.forall_mem_cons.mpr ⟨hw.agree hw hnow, hnew⟩, fun x hx => ?_⟩⟩, hread⟩
  exact List.forall_mem_cons.mpr ⟨(hnew x hx).symm, hagree x hx⟩

theorem Sound.readOne {s t : State} (h : Sound s) (u : UnitId) (p : OutPort) (ht : s.readOne u p = .next t) :
    Sound t := by
  obtain ⟨-, rfl⟩ := readOne_next_cases s t u p ht
  refine h.noteWord _ (fun v hv => ?_) rfl
  obtain ⟨r, hr, rfl⟩ := Option.map_eq_some_iff.mp hv
  obtain ⟨a, b, ha, hb, hs, rfl⟩ := (outputWords_eq_some u _ r).mp hr
  exact ⟨Nat.le_refl _, fun _ => ⟨hs, a, b, ha, hb, by rw [unitResult_eq_exactProduct]⟩⟩

/-- A pair that two noted words make is the exact product of one operand pair (R24, R94). -/
theorem Sound.lastPair_exact {s : State} (h : Sound s) (u : UnitId) (r : Response) (hr : s.lastPair u = some r) :
    ∃ a b, r = exactProduct a b := by
  obtain ⟨-, -, ⟨-, hagree⟩, -⟩ := h
  obtain ⟨x, y, hx, hy, hchanges, hhi, hlo⟩ := lastPair_eq_some s u r hr
  obtain ⟨hxmem, hxunit, hxport⟩ := lastWord_spec s u .hi x hx
  obtain ⟨hymem, hyunit, hyport⟩ := lastWord_spec s u .lo y hy
  obtain ⟨a, b, hhiword, hloword⟩ :=
    hagree x hxmem y hymem (hxunit.trans hyunit.symm) hchanges r.hi r.lo hhi hlo
  rw [hxport] at hhiword
  rw [hyport] at hloword
  exact ⟨a, b, congrArg₂ Response.mk hhiword hloword⟩

theorem Sound.takePair {s : State} (h : Sound s) (u : UnitId) : Sound (s.takePair u) := by
  obtain ⟨r, hr, ht⟩ | ⟨-, ht⟩ := takePair_cases s u
  · obtain ⟨a, b, rfl⟩ := h.lastPair_exact u r hr
    rw [ht]
    exact h.noteReading a b
  · rw [ht]
    exact h.noteFreeReading

/-! ### Every host action -/

theorem Sound.perform {s t : State} (h : Sound s) (it : HostItem) (hp : perform it s = .next t) : Sound t := by
  obtain ⟨i, hi, -⟩ | ⟨k, x, y, ds, -, rfl⟩ | ⟨u, v, -, rfl⟩ | ⟨u, v, -, rfl⟩ | ⟨n, -, rfl⟩ |
    ⟨u, -, hr⟩ | ⟨u, p, -, hr⟩ | ⟨u, -, rfl⟩ := perform_next_cases it s t hp
  · rw [exec_eq_exactProduct] at hi
    cases hi
    exact h.completeCall i.unit i.opA i.opB
  · exact h
  · exact h.driveA u v
  · exact h.driveB u v
  · exact h.wait n
  · exact h.readBoth u hr
  · exact h.readOne u p hr
  · exact h.takePair u

end Sys2Proof.Machine
end

section
/-! The invariant of the machine (spec/10_state.md, spec/20_memory.md, spec/40_contract.md): it holds at reset, every
step keeps it, and slots are written once. -/

namespace Sys2Proof.Machine

/-- Settles O34: a step performs one host action, and every host action keeps the invariant. -/
theorem stepKeepsSlotsExactAndPortsConsistent : Obligations.StepKeepsSlotsExactAndPortsConsistent := by
  intro s t hs hstep
  obtain ⟨it, rest, -, -, hp⟩ := step_next_cases s t hstep
  have hpop : Sound s.popWork := hs
  exact hpop.perform it hp

/-- At reset nobody has driven an input (R91; log 6). -/
theorem group_reset (u : UnitId) : State.reset.ports.group u = PortGroup.undriven := by cases u <;> rfl

/-- Settles O35: the lists are empty, and inputs that nobody has driven have not settled. -/
theorem resetMeetsTheInvariant : Obligations.ResetMeetsTheInvariant := by
  refine ⟨List.forall_mem_nil _, fun u hs => ?_, ⟨List.forall_mem_nil _, List.forall_mem_nil _⟩,
    List.forall_mem_nil _⟩
  rw [group_reset] at hs
  cases hs

/-- Settles O36: a step only adds to the slots, and an exact product has no all-ones `hi`. -/
theorem slotsAreWrittenOnceAndBounded : Obligations.SlotsAreWrittenOnceAndBounded := by
  intro s t hs hstep
  obtain ⟨hexact, -⟩ := stepKeepsSlotsExactAndPortsConsistent s t hs hstep
  obtain ⟨-, rs, -, hslots, -⟩ := step_work_slots s t hstep
  constructor
  · intro r hr hones
    obtain ⟨a, b, rfl⟩ := hexact r hr
    have hle := exactProduct_hi_le a b
    rw [hones] at hle
    exact absurd hle (by decide)
  · intro k r hk
    obtain ⟨hlt, -⟩ := List.getElem?_eq_some_iff.mp hk
    rw [hslots, List.getElem?_append_left hlt, hk]

end Sys2Proof.Machine
end

section
/-! SUPPORT. The ports of the units under the port actions, and what is read there (spec/10_state.md R16,
spec/20_memory.md R25, spec/70_reset_and_hazards.md R94). -/

namespace Sys2Proof.Machine

/-! ### The ports after a drive -/

theorem driveA_group_self (s : State) (u : UnitId) (v : Word) :
    (s.driveA u v).ports.group u = (s.ports.group u).setInputs (some v) (s.ports.group u).b :=
  group_setGroup_self _ _ _

theorem driveB_group_self (s : State) (u : UnitId) (v : Word) :
    (s.driveB u v).ports.group u = (s.ports.group u).setInputs (s.ports.group u).a (some v) :=
  group_setGroup_self _ _ _

/-- Driving `U.a` does not touch another unit's ports (R2). -/
theorem driveA_group_of_ne (s : State) (u w : UnitId) (v : Word) (h : w ≠ u) :
    (s.driveA u v).ports.group w = s.ports.group w := group_setGroup_of_ne _ _ _ _ h

/-- Driving `U.b` does not touch another unit's ports (R2). -/
theorem driveB_group_of_ne (s : State) (u w : UnitId) (v : Word) (h : w ≠ u) :
    (s.driveB u v).ports.group w = s.ports.group w := group_setGroup_of_ne _ _ _ _ h

theorem driveA_group_a (s : State) (u w : UnitId) (v : Word) :
    ((s.driveA u v).ports.group w).a = if w = u then some v else (s.ports.group w).a := by
  split
  · subst w
    rw [driveA_group_self, setInputs_a]
  · rw [driveA_group_of_ne s u w v ‹_›]

theorem driveA_group_b (s : State) (u w : UnitId) (v : Word) :
    ((s.driveA u v).ports.group w).b = (s.ports.group w).b := by
  by_cases h : w = u
  · subst w
    rw [driveA_group_self, setInputs_b]
  · rw [driveA_group_of_ne s u w v h]

theorem driveB_group_a (s : State) (u w : UnitId) (v : Word) :
    ((s.driveB u v).ports.group w).a = (s.ports.group w).a := by
  by_cases h : w = u
  · subst w
    rw [driveB_group_self, setInputs_a]
  · rw [driveB_group_of_ne s u w v h]

theorem driveB_group_b (s : State) (u w : UnitId) (v : Word) :
    ((s.driveB u v).ports.group w).b = if w = u then some v else (s.ports.group w).b := by
  split
  · subst w
    rw [driveB_group_self, setInputs_b]
  · rw [driveB_group_of_ne s u w v ‹_›]

/-- Another level on `U.a` starts the settling time again and is counted (R94, U3). -/
theorem driveA_group_of_changed (s : State) (u : UnitId) (v : Word) (h : (s.ports.group u).a ≠ some v) :
    (s.driveA u v).ports.group u = ⟨some v, (s.ports.group u).b, .moving 0, (s.ports.group u).changes + 1⟩ := by
  rw [driveA_group_self, setInputs_changed]
  exact fun hab => h hab.1

/-- Another level on `U.b` starts the settling time again and is counted (R94, U3). -/
theorem driveB_group_of_changed (s : State) (u : UnitId) (v : Word) (h : (s.ports.group u).b ≠ some v) :
    (s.driveB u v).ports.group u = ⟨(s.ports.group u).a, some v, .moving 0, (s.ports.group u).changes + 1⟩ := by
  rw [driveB_group_self, setInputs_changed]
  exact fun hab => h hab.2

/-- The level `U.a` has is no change (R94; log 18). -/
theorem driveA_group_of_same (s : State) (u : UnitId) (v : Word) (h : (s.ports.group u).a = some v) :
    (s.driveA u v).ports.group u = s.ports.group u := by
  rw [driveA_group_self, ← h, setInputs_same]

/-- The level `U.b` has is no change (R94; log 18). -/
theorem driveB_group_of_same (s : State) (u : UnitId) (v : Word) (h : (s.ports.group u).b = some v) :
    (s.driveB u v).ports.group u = s.ports.group u := by
  rw [driveB_group_self, ← h, setInputs_same]

/-! ### Driven and settled inputs -/

theorem driven_iff (g : PortGroup) : g.driven = true ↔ ∃ a b, g.a = some a ∧ g.b = some b := by
  simp only [PortGroup.driven, Bool.and_eq_true, Option.isSome_iff_exists, exists_and_left, exists_and_right]

/-- One input without a level makes a unit undriven (R91). -/
theorem driven_eq_false (g : PortGroup) (h : g.a = none ∨ g.b = none) : g.driven = false := by
  rw [PortGroup.driven]
  obtain h | h := h
  · rw [h]
    rfl
  · rw [h]
    exact Bool.and_false _

theorem group_wait (s : State) (u : UnitId) (n : Nat) :
    (s.wait n).ports.group u = (s.ports.group u).elapse u n := group_elapse s.ports n u

/-- Driven inputs held for the bound are settled, however they stood before (R94, R95). -/
theorem elapse_settled_of_le (u : UnitId) (n : Nat) (g : PortGroup) (a b : Word) (ha : g.a = some a)
    (hb : g.b = some b) (hn : Config.tPD u ≤ n) : (g.elapse u n).settle = .settled := by
  cases hs : g.settle with
  | settled => rw [elapse_of_settled u n g hs, hs]
  | moving e => rw [elapse_settle_of_driven u n e g a b ha hb hs, if_pos (by omega)]

/-- Driven inputs held for the bound show their exact product (R16, R41, R94). -/
theorem outputWords_elapse_of_le (u : UnitId) (n : Nat) (g : PortGroup) (a b : Word) (ha : g.a = some a)
    (hb : g.b = some b) (hn : Config.tPD u ≤ n) : outputWords u (g.elapse u n) = some (exactProduct a b) :=
  outputWords_of_settled u _ a b ((elapse_a g u n).trans ha) ((elapse_b g u n).trans hb)
    (elapse_settled_of_le u n g a b ha hb hn)

/-- Inputs that have not settled show no value (R94, U3). -/
theorem outputWords_of_moving (u : UnitId) (g : PortGroup) (e : Nat) (hs : g.settle = .moving e) :
    outputWords u g = none := by
  rw [Option.eq_none_iff_forall_ne_some]
  intro r hr
  obtain ⟨-, -, -, -, hset, -⟩ := (outputWords_eq_some u g r).mp hr
  rw [hs] at hset
  cases hset

/-! ### Reading both words -/

/-- Reading both words of settled inputs notes what they show (R94). -/
theorem readBoth_of_outputWords (s : State) (u : UnitId) (r : Response)
    (ho : outputWords u (s.ports.group u) = some r) : s.readBoth u = .next (s.noteReading r) := by
  obtain ⟨a, b, ha, hb, -, -⟩ := (outputWords_eq_some u _ r).mp ho
  rw [State.readBoth, if_pos ((driven_iff _).mpr ⟨a, b, ha, hb⟩), ho]

/-- Reading both words before the bound has passed notes the next free pair (R94, U3). -/
theorem readBoth_wait_of_early (s : State) (u : UnitId) (n e : Nat) (hd : (s.ports.group u).driven = true)
    (hs : (s.ports.group u).settle = .moving e) (hn : e + n < Config.tPD u) :
    (s.wait n).readBoth u = .next (s.wait n).noteFreeReading := by
  obtain ⟨a, b, ha, hb⟩ := (driven_iff _).mp hd
  have hmoving : ((s.wait n).ports.group u).settle = .moving (e + n) := by
    rw [group_wait, elapse_settle_of_driven u n e _ a b ha hb hs, if_neg (by omega)]
  have hdriven : ((s.wait n).ports.group u).driven = true := by rw [group_wait, driven_elapse, hd]
  rw [State.readBoth, if_pos hdriven, outputWords_of_moving u _ _ hmoving]

/-- Reading both words of a driven unit completes, settled or early (R94, U3). -/
theorem readBoth_completes (s : State) (u : UnitId) (hd : (s.ports.group u).driven = true) :
    ∃ t, s.readBoth u = .next t := by
  rw [State.readBoth, if_pos hd]
  split
  · exact ⟨_, rfl⟩
  · exact ⟨_, rfl⟩

/-! ### Reading one word -/

/-- Reading one word of driven inputs notes what the port shows (R94). -/
theorem readOne_of_driven (s : State) (u : UnitId) (p : OutPort) (hd : (s.ports.group u).driven = true) :
    s.readOne u p = .next (s.noteWord ⟨u, p, (outputWords u (s.ports.group u)).map (fun r => r.word p),
      (s.ports.group u).changes⟩) := if_pos hd

/-- Reading one word of settled inputs notes that word of their exact product (R16, R94). -/
theorem readOne_of_settled (s : State) (u : UnitId) (p : OutPort) (a b : Word) (c : Nat)
    (ha : (s.ports.group u).a = some a) (hb : (s.ports.group u).b = some b)
    (hs : (s.ports.group u).settle = .settled) (hc : (s.ports.group u).changes = c) :
    s.readOne u p = .next (s.noteWord ⟨u, p, some ((exactProduct a b).word p), c⟩) := by
  rw [readOne_of_driven s u p ((driven_iff _).mpr ⟨a, b, ha, hb⟩), outputWords_of_settled u _ a b ha hb hs,
    Option.map_some, hc]

/-- Reading one word of inputs that a wait has left settled (R16, R94). -/
theorem readOne_of_elapsed (s : State) (u : UnitId) (n : Nat) (p : OutPort) (a b : Word) (g : PortGroup)
    (hg : s.ports.group u = g.elapse u n) (ha : g.a = some a) (hb : g.b = some b)
    (hs : (g.elapse u n).settle = .settled) :
    s.readOne u p = .next (s.noteWord ⟨u, p, some ((exactProduct a b).word p), g.changes⟩) :=
  readOne_of_settled s u p a b g.changes (by rw [hg, elapse_a, ha]) (by rw [hg, elapse_b, hb]) (by rw [hg, hs])
    (by rw [hg, elapse_changes])

/-- Reading one word early notes that it is no word of a call's result (R94, U3). -/
theorem readOne_of_moving (s : State) (u : UnitId) (p : OutPort) (e : Nat)
    (hd : (s.ports.group u).driven = true) (hs : (s.ports.group u).settle = .moving e) :
    s.readOne u p = .next (s.noteWord ⟨u, p, none, (s.ports.group u).changes⟩) := by
  rw [readOne_of_driven s u p hd, outputWords_of_moving u _ e hs, Option.map_none]

/-! ### Taking a pair of two words -/

theorem ports_of_ne {p q : OutPort} (h : p ≠ q) : (p = .hi ∧ q = .lo) ∨ (p = .lo ∧ q = .hi) := by
  revert h
  cases p <;> cases q <;> decide

/-- Two words read one after the other are the last words of their two ports (R94; log 16). -/
theorem lastWord_of_two_words (s : State) (u : UnitId) (p q : OutPort) (x y : Option Word) (j k : Nat)
    (ws : List WordReading) (hpq : p ≠ q) (hw : s.words = ⟨u, q, y, k⟩ :: ⟨u, p, x, j⟩ :: ws) :
    s.lastWord u p = some ⟨u, p, x, j⟩ ∧ s.lastWord u q = some ⟨u, q, y, k⟩ := by
  constructor
  · simp [State.lastWord, hw, hpq.symm]
  · simp [State.lastWord, hw]

/-- Two words of one pair, read with no input changed between them, are taken as that pair, in either order (R94;
log 16). -/
theorem takePair_of_one_pair (s : State) (u : UnitId) (p q : OutPort) (r : Response) (k : Nat)
    (ws : List WordReading) (hpq : p ≠ q)
    (hw : s.words = ⟨u, q, some (r.word q), k⟩ :: ⟨u, p, some (r.word p), k⟩ :: ws) :
    s.takePair u = s.noteReading r := by
  obtain ⟨hp, hq⟩ := lastWord_of_two_words s u p q _ _ k k ws hpq hw
  have hpair : s.lastPair u = some r := by
    obtain ⟨rfl, rfl⟩ | ⟨rfl, rfl⟩ := ports_of_ne hpq
    · rw [State.lastPair, hp, hq]
      exact if_pos rfl
    · rw [State.lastPair, hp, hq]
      exact if_pos rfl
  rw [State.takePair, hpair]

/-- A word read early, or an input changed between the two readings, makes the pair free (R94, U3; log 16). -/
theorem takePair_of_no_pair (s : State) (u : UnitId) (p q : OutPort) (x y : Option Word) (j k : Nat)
    (ws : List WordReading) (hpq : p ≠ q) (hw : s.words = ⟨u, q, y, k⟩ :: ⟨u, p, x, j⟩ :: ws)
    (hfree : x = none ∨ j ≠ k) : s.takePair u = s.noteFreeReading := by
  obtain ⟨hp, hq⟩ := lastWord_of_two_words s u p q x y j k ws hpq hw
  obtain ⟨r, hr, -⟩ | ⟨-, ht⟩ := takePair_cases s u
  · obtain ⟨h, l, hhi, hlo, hchanges, hhval, hlval⟩ := lastPair_eq_some s u r hr
    have hwhole : x.isSome = true ∧ j = k := by
      obtain ⟨rfl, rfl⟩ | ⟨rfl, rfl⟩ := ports_of_ne hpq
      · cases hp.symm.trans hhi
        cases hq.symm.trans hlo
        exact ⟨Option.isSome_of_eq_some hhval, hchanges⟩
      · cases hp.symm.trans hlo
        cases hq.symm.trans hhi
        exact ⟨Option.isSome_of_eq_some hlval, hchanges.symm⟩
    obtain ⟨hsome, heq⟩ := hwhole
    obtain rfl | hne := hfree
    · cases hsome
    · exact absurd heq hne
  · exact ht

/-- Another level on `U.a` of a driven unit leaves it driven and its count of input changes above any count so far
(R94, U3). -/
theorem driveA_counts (s : State) (u : UnitId) (v : Word) (k : Nat) (hd : (s.ports.group u).driven = true)
    (hv : (s.ports.group u).a ≠ some v) (hk : k ≤ (s.ports.group u).changes) :
    ((s.driveA u v).ports.group u).driven = true ∧ k < ((s.driveA u v).ports.group u).changes := by
  obtain ⟨a, b, -, hb⟩ := (driven_iff _).mp hd
  rw [driveA_group_of_changed s u v hv]
  exact ⟨(driven_iff _).mpr ⟨v, b, rfl, hb⟩, Nat.lt_succ_of_le hk⟩

/-- Another level on `U.b` of a driven unit leaves it driven and its count of input changes above any count so far
(R94, U3). -/
theorem driveB_counts (s : State) (u : UnitId) (v : Word) (k : Nat) (hd : (s.ports.group u).driven = true)
    (hv : (s.ports.group u).b ≠ some v) (hk : k ≤ (s.ports.group u).changes) :
    ((s.driveB u v).ports.group u).driven = true ∧ k < ((s.driveB u v).ports.group u).changes := by
  obtain ⟨a, b, ha, -⟩ := (driven_iff _).mp hd
  rw [driveB_group_of_changed s u v hv]
  exact ⟨(driven_iff _).mpr ⟨a, v, ha, rfl⟩, Nat.lt_succ_of_le hk⟩

/-- Another level on either input of a driven unit, and another level and the old one again, are counted and touch
none of the host's data (R94, U3). -/
theorem input_change_counts (s c : State) (u : UnitId) (a b v w : Word) (ha : (s.ports.group u).a = some a)
    (hb : (s.ports.group u).b = some b) (hv : v ≠ a) (hw : w ≠ b)
    (hc : c ∈ [s.driveA u v, s.driveB u w, (s.driveA u v).driveA u a, (s.driveB u w).driveB u b]) :
    c.words = s.words ∧ c.readings = s.readings ∧ c.draws = s.draws ∧ c.slots = s.slots ∧
      (c.ports.group u).driven = true ∧ (s.ports.group u).changes < (c.ports.group u).changes := by
  have hd : (s.ports.group u).driven = true := (driven_iff _).mpr ⟨a, b, ha, hb⟩
  have hA := driveA_counts s u v _ hd (by simpa [ha] using hv.symm) le_rfl
  have hB := driveB_counts s u w _ hd (by simpa [hb] using hw.symm) le_rfl
  simp only [List.mem_cons, List.not_mem_nil, or_false] at hc
  obtain rfl | rfl | rfl | rfl := hc
  · exact ⟨rfl, rfl, rfl, rfl, hA⟩
  · exact ⟨rfl, rfl, rfl, rfl, hB⟩
  · obtain ⟨hdriven, hcount⟩ := hA
    refine ⟨rfl, rfl, rfl, rfl, driveA_counts _ u a _ hdriven ?_ hcount.le⟩
    rw [driveA_group_a, if_pos rfl]
    exact fun h => hv (Option.some.inj h)
  · obtain ⟨hdriven, hcount⟩ := hB
    refine ⟨rfl, rfl, rfl, rfl, driveB_counts _ u b _ hdriven ?_ hcount.le⟩
    rw [driveB_group_b, if_pos rfl]
    exact fun h => hw (Option.some.inj h)

/-- A word read after an input change makes no pair with the word read before it (R94, U3; log 16). -/
theorem pair_free_after_change (s : State) (u : UnitId) (p q : OutPort) (x : Option Word) (j n : Nat)
    (ws : List WordReading) (hpq : p ≠ q) (hw : s.words = ⟨u, p, x, j⟩ :: ws)
    (hg : (s.ports.group u).driven = true ∧ j < (s.ports.group u).changes) :
    ∃ t2 t3, perform (.readOne u q) (s.wait n) = .next t2 ∧ perform (.takePair u) t2 = .next t3 ∧
      t3.readings = s.readings ++ [⟨Config.freeHi s.draws, Config.freeLo s.draws⟩] ∧ t3.draws = s.draws + 1 ∧
      t3.slots = s.slots := by
  obtain ⟨hd, hlt⟩ := hg
  have hread := readOne_of_driven (s.wait n) u q (by rw [group_wait, driven_elapse, hd])
  have hcount : j ≠ ((s.wait n).ports.group u).changes := by
    rw [group_wait, elapse_changes]
    exact Nat.ne_of_lt hlt
  exact ⟨_, _, hread, congrArg Host.Outcome.next
    (takePair_of_no_pair _ u p q x _ j _ ws hpq (congrArg (List.cons _) hw) (.inr hcount)), rfl, rfl, rfl⟩

/-! ### The start of a port-level call -/

/-- Two steps drive both inputs of a unit and touch none of the host's data (R94). -/
theorem run_driveA_driveB (s : State) (u : UnitId) (a b : Word) (rest : List HostItem)
    (hw : s.work = .driveA u a :: .driveB u b :: rest) (hf : s.workWf = true) :
    ∃ t : State, Host.Core.run Sys2Proof.core 2 s = .next t ∧ t.work = rest ∧ t.workWf = true ∧
      (t.ports.group u).a = some a ∧ (t.ports.group u).b = some b ∧ t.slots = s.slots ∧ t.reports = s.reports ∧
      t.readings = s.readings ∧ t.words = s.words ∧ t.draws = s.draws ∧ t.block = s.block := by
  obtain ⟨hs1, hw1, hf1⟩ := step_of_perform s (s.popWork.driveA u a) _ _ hw hf rfl
  obtain ⟨hs2, hw2, hf2⟩ := step_of_perform _ ((s.popWork.driveA u a).popWork.driveB u b) _ _ hw1 hf1 rfl
  refine ⟨_, ?_, hw2, hf2, ?_, ?_, rfl, rfl, rfl, rfl, rfl, rfl⟩
  · rw [run_succ_of_next _ _ _ hs1, run_succ_of_next _ _ _ hs2]
    rfl
  · rw [driveB_group_a, popWork_ports, driveA_group_a, if_pos rfl]
  · rw [driveB_group_b, if_pos rfl]

end Sys2Proof.Machine
end

section
/-! The port level (spec/70_reset_and_hazards.md R91, R94, R95, spec/20_memory.md R24, R25,
spec/93_implementation_defined.md U3, U5): driving, waiting, readings settled and early, and whole port-level calls. -/

namespace Sys2Proof.Machine

/-! ### Frames, undriven units, settling -/

/-- Settles O45: an undriven unit is refused either way. -/
theorem undrivenUnitCannotBeRead : Obligations.UndrivenUnitCannotBeRead := by
  intro s u port h
  have hnot : ¬(s.ports.group u).driven = true := by simp [driven_eq_false _ h]
  exact ⟨if_neg hnot, if_neg hnot⟩

/-- Settles O48: the settling time of driven inputs names no operand. -/
theorem settlingTimeIgnoresOperands : Obligations.SettlingTimeIgnoresOperands := by
  intro u n e a b a' b' c c'
  have hsettle : ∀ (x y : Word) (k : Nat), (PortGroup.elapse u n ⟨some x, some y, .moving e, k⟩).settle =
      if Config.tPD u ≤ e + n then .settled else .moving (e + n) :=
    fun x y k => elapse_settle_of_driven u n e _ x y rfl rfl rfl
  refine ⟨Nat.succ_pos _, (hsettle a b c).trans (hsettle a' b' c').symm, ?_⟩
  rw [hsettle]
  split
  · exact iff_of_true rfl ‹_›
  · exact iff_of_false (by simp) ‹_›

/-- Driving and waiting by the fields they write (R2, R94). -/
theorem drive_wait_frame (s : State) (u : UnitId) (v : Word) (n : Nat) :
    ((s.driveA u v).ports.group u).a = some v ∧ ((s.driveA u v).ports.group u).b = (s.ports.group u).b ∧
      ((s.driveB u v).ports.group u).b = some v ∧ ((s.driveB u v).ports.group u).a = (s.ports.group u).a ∧
      (∀ w, w ≠ u → (s.driveA u v).ports.group w = s.ports.group w ∧
        (s.driveB u v).ports.group w = s.ports.group w) ∧
      ∀ w, ((s.wait n).ports.group w).a = (s.ports.group w).a ∧
        ((s.wait n).ports.group w).b = (s.ports.group w).b := by
  refine ⟨?_, driveA_group_b s u u v, ?_, driveB_group_a s u u v,
    fun w hw => ⟨driveA_group_of_ne s u w v hw, driveB_group_of_ne s u w v hw⟩, fun w => ?_⟩
  · rw [driveA_group_a, if_pos rfl]
  · rw [driveB_group_b, if_pos rfl]
  · rw [group_wait]
    exact ⟨elapse_a .., elapse_b ..⟩

/-- Settles O49: the drives and the wait by the fields they write, the readings by the frame of each. -/
theorem portActionsTouchTheirOwnInputs : Obligations.PortActionsTouchTheirOwnInputs := by
  refine ⟨fun s u v n => ?drives, fun s u port => ⟨fun hd => ?completes, ⟨_, rfl⟩, fun it hit t ht => ?untouched,
    fun t ht => ?oneWord, fun it hit t ht => ?onePair⟩⟩
  case drives =>
    obtain ⟨hA, hAb, hB, hBa, hothers, hwait⟩ := drive_wait_frame s u v n
    exact ⟨s.driveA u v, s.driveB u v, s.wait n, rfl, rfl, rfl, hA, hAb, hB, hBa, hothers, hwait, by simp⟩
  case completes =>
    obtain ⟨t, ht⟩ := readBoth_completes s u hd
    exact ⟨t, _, ht, readOne_of_driven s u port hd⟩
  case untouched =>
    obtain rfl | rfl | rfl : it = .readBoth u ∨ it = .readOne u port ∨ it = .takePair u := by simpa using hit
    · obtain ⟨hports, hslots, hreports, hwork, hblock, -⟩ := readBoth_frame s t u ht
      exact ⟨hports, hslots, hreports, hwork, hblock⟩
    · obtain ⟨hports, hslots, hreports, hwork, hblock, -⟩ := readOne_frame s t u port ht
      exact ⟨hports, hslots, hreports, hwork, hblock⟩
    · obtain ⟨hports, hslots, hreports, hwork, hblock, -⟩ := takePair_frame s u
      cases ht
      exact ⟨hports, hslots, hreports, hwork, hblock⟩
  case oneWord =>
    obtain ⟨-, -, -, -, -, hreadings, hdraws, hwords⟩ := readOne_frame s t u port ht
    exact ⟨hreadings, hdraws, hwords⟩
  case onePair =>
    obtain rfl | rfl : it = .readBoth u ∨ it = .takePair u := by simpa using hit
    · obtain ⟨-, -, -, -, -, hwords, hreadings⟩ := readBoth_frame s t u ht
      exact ⟨hwords, hreadings⟩
    · obtain ⟨-, -, -, -, -, hwords, hreadings⟩ := takePair_frame s u
      cases ht
      exact ⟨hwords, hreadings⟩

/-- Settles O43: after the drives each unit has its own two inputs, and the wait reaches its bound. -/
theorem threeUnitsSettleTogether : Obligations.ThreeUnitsSettleTogether := by
  intro s a b c d e f n hn
  simp only [group_wait]
  refine ⟨outputWords_elapse_of_le _ n _ a b ?_ ?_ (hn .A), outputWords_elapse_of_le _ n _ c d ?_ ?_ (hn .B),
    outputWords_elapse_of_le _ n _ e f ?_ ?_ (hn .N)⟩
  all_goals simp only [driveA_group_a, driveA_group_b, driveB_group_a, driveB_group_b, reduceCtorEq, if_true, if_false]

/-! ### Early readings -/

/-- Settles O44: another level starts the settling time again, and a reading before the bound is early. -/
theorem earlyReadingIsAFreeValue : Obligations.EarlyReadingIsAFreeValue := by
  constructor
  · intro s u a b e n ha hb hs hn
    exact readBoth_wait_of_early s u n e ((driven_iff _).mpr ⟨a, b, ha, hb⟩) hs hn
  · intro s u v n
    refine ⟨driveA_group_of_same s u v, driveB_group_of_same s u v, fun ha => ?_, fun hb => ?_⟩
    · have hgroup := driveA_group_of_changed s u v ha
      refine ⟨by rw [hgroup], fun hother hn => ⟨_, readBoth_wait_of_early _ u n 0 ?_ ?_ (by omega), rfl⟩⟩
      · rw [hgroup]
        exact hother
      · rw [hgroup]
    · have hgroup := driveB_group_of_changed s u v hb
      refine ⟨by rw [hgroup], fun hother hn => ⟨_, readBoth_wait_of_early _ u n 0 ?_ ?_ (by omega), rfl⟩⟩
      · rw [hgroup, PortGroup.driven, hother]
        rfl
      · rw [hgroup]

/-! ### Words read one at a time -/

/-- Settles O46: both words are read of the same settled inputs. -/
theorem separateReadingsOfHeldInputsMakeThePair : Obligations.SeparateReadingsOfHeldInputsMakeThePair := by
  intro s u a b first second n m hne ha hb hs
  have hheld : ∀ k, (s.ports.group u).elapse u k = s.ports.group u := fun k => elapse_of_settled u k _ hs
  refine ⟨_, _, _, readOne_of_settled s u first a b _ ha hb hs rfl,
    readOne_of_elapsed _ u n second a b (s.ports.group u) (group_wait _ u n) ha hb ?_,
    congrArg Host.Outcome.next (takePair_of_one_pair _ u first second (exactProduct a b) _ s.words hne rfl),
    rfl, rfl, rfl, rfl, rfl, ?_⟩
  · rw [hheld, hs]
  · simp only [noteReading_ports, group_wait, noteWord_ports, hheld]
    exact ⟨ha, hb, hs⟩

/-- Settles O51: the early word makes no pair with the later one; read again, it is of the same settled inputs. -/
theorem earlyWordFreesThePairUntilReadAgain : Obligations.EarlyWordFreesThePairUntilReadAgain := by
  intro s u a b first second e n hne ha hb hs hn
  have hset : ((s.ports.group u).elapse u n).settle = .settled := by
    rw [elapse_settle_of_driven u n e _ a b ha hb hs, if_pos hn]
  exact ⟨_, _, _, _, _, readOne_of_moving s u first e ((driven_iff _).mpr ⟨a, b, ha, hb⟩) hs,
    readOne_of_elapsed _ u n second a b (s.ports.group u) (group_wait _ u n) ha hb hset,
    congrArg Host.Outcome.next (takePair_of_no_pair _ u first second none _ _ _ s.words hne rfl (.inl rfl)), rfl,
    readOne_of_elapsed _ u n first a b (s.ports.group u) (group_wait _ u n) ha hb hset,
    congrArg Host.Outcome.next (takePair_of_one_pair _ u second first (exactProduct a b) _ (_ :: s.words) hne.symm rfl),
    rfl⟩

/-- Settles O47: in each of the four ways a change of the unit's inputs is counted after the first reading. -/
theorem inputChangeBetweenReadingsFreesThePair : Obligations.InputChangeBetweenReadingsFreesThePair := by
  intro s u a b v w first second n hne hv hw ha hb hs
  refine ⟨_, readOne_of_settled s u first a b _ ha hb hs rfl, fun c hc => ?_⟩
  obtain ⟨hwords, hreadings, hdraws, hslots, hcounted⟩ :=
    input_change_counts (s.noteWord _) c u a b v w ha hb hv hw hc
  have hfree := pair_free_after_change c u first second _ _ n s.words hne hwords hcounted
  rwa [hreadings, hdraws, hslots] at hfree

/-! ### Whole port-level calls -/

/-- Settles O42: the drives and the wait leave both inputs settled, and the reading notes what they show. -/
theorem portLevelCallReadsTheCallsResult : Obligations.PortLevelCallReadsTheCallsResult := by
  intro s u a b n rest hw hf hn
  obtain ⟨s2, hrun, hw2, hf2, ha, hb, hslots, hreports, hreadings, hwords, hdraws, hblock⟩ :=
    run_driveA_driveB s u a b _ hw hf
  have hout : outputWords u ((s2.popWork.wait n).ports.group u) = some (exactProduct a b) := by
    rw [group_wait]
    exact outputWords_elapse_of_le u n _ a b ha hb hn
  obtain ⟨hs3, hw3, hf3⟩ := step_of_perform s2 (s2.popWork.wait n) _ _ hw2 hf2 rfl
  obtain ⟨hs4, hw4, -⟩ := step_of_perform _ _ _ _ hw3 hf3 (readBoth_of_outputWords _ u (exactProduct a b) hout)
  refine ⟨_, _, exactProduct a b, ?_, exec_eq_exactProduct _ s, by simp, congrArg (· ++ _) hreadings, rfl, hw4,
    hslots, hreports, hwords, hdraws, hblock, ?_, ?_, hout⟩
  · rw [run_add_of_next 2 2 s s2 hrun, run_succ_of_next _ _ _ hs3, run_succ_of_next _ _ _ hs4]
    rfl
  · rw [noteReading_ports, popWork_ports, group_wait, elapse_a, popWork_ports, ha]
  · rw [noteReading_ports, popWork_ports, group_wait, elapse_b, popWork_ports, hb]

/-- Settles O50: whatever was read before, the last two words are of the same settled inputs. -/
theorem wordByWordCallReadsTheCallsResult : Obligations.WordByWordCallReadsTheCallsResult := by
  intro s u a b n first second extra rest hne hn hf hw
  obtain ⟨s2, hrun, hw2, hf2, ha, hb, hslots, hreports, hreadings, -, hdraws, -⟩ :=
    run_driveA_driveB s u a b _ hw hf
  have hset := elapse_settled_of_le u n (s2.ports.group u) a b ha hb hn
  obtain ⟨hs3, hw3, hf3⟩ := step_of_perform s2 _ _ _ hw2 hf2
    (readOne_of_driven s2.popWork u extra ((driven_iff _).mpr ⟨a, b, ha, hb⟩))
  obtain ⟨hs4, hw4, hf4⟩ := step_of_perform _ (State.wait (State.popWork _) n) _ _ hw3 hf3 rfl
  obtain ⟨hs5, hw5, hf5⟩ := step_of_perform _ _ _ _ hw4 hf4
    (readOne_of_elapsed _ u n first a b (s2.ports.group u) (group_wait _ u n) ha hb hset)
  obtain ⟨hs6, hw6, hf6⟩ := step_of_perform _ _ _ _ hw5 hf5
    (readOne_of_elapsed _ u n second a b (s2.ports.group u) (group_wait _ u n) ha hb hset)
  obtain ⟨hs7, hw7, -⟩ := step_of_perform _ _ _ _ hw6 hf6
    (congrArg Host.Outcome.next (takePair_of_one_pair _ u first second (exactProduct a b) _ _ hne rfl))
  refine ⟨_, _, exactProduct a b, ?_, exec_eq_exactProduct _ s, by simp, congrArg (· ++ _) hreadings, rfl, hw7,
    hslots, hreports, hdraws⟩
  rw [run_add_of_next 2 5 s s2 hrun, run_succ_of_next _ _ _ hs3, run_succ_of_next _ _ _ hs4,
    run_succ_of_next _ _ _ hs5, run_succ_of_next _ _ _ hs6, run_succ_of_next _ _ _ hs7]
  rfl

end Sys2Proof.Machine
end

section
/-! SUPPORT. Hexadecimal digits and the part that the two text forms share (spec/30_encoding.md R39). -/

namespace Sys2Proof.Machine

/-! ### Digits -/

@[simp] theorem hexDigits_length (k v : Nat) : (hexDigits k v).length = k := by
  induction k generalizing v with
  | zero => rfl
  | succ k ih => simp [hexDigits, ih]

/-- Digit `i` of `n` digits, most significant first (R7, R39). -/
theorem hexDigits_getElem? (n v i : Nat) (hi : i < n) :
    (hexDigits n v)[i]? = some (hexDigit (v / 16 ^ (n - 1 - i) % 16)) := by
  induction n generalizing v with
  | zero => cases hi
  | succ n ih =>
    rw [hexDigits]
    obtain hlt | rfl := Nat.lt_or_eq_of_le (Nat.le_of_lt_succ hi)
    · have hexp : n + 1 - 1 - i = n - 1 - i + 1 := by omega
      rw [List.getElem?_append_left (by rwa [hexDigits_length]), ih _ hlt, hexp, Nat.div_div_eq_div_mul,
        Nat.pow_succ']
    · simp

/-- A digit reads back as its value (R7). -/
theorem hexValue_hexDigit : ∀ d < 16, hexValue (hexDigit d) = some d := by decide

/-- Digits are read one after the other. -/
theorem readHex_concat (acc : Nat) (cs : List Char) (c : Char) :
    readHex acc (cs ++ [c]) =
      (readHex acc cs).bind fun v => (hexValue c).map fun d => 16 * v + d := by
  induction cs generalizing acc with
  | nil => cases h : hexValue c <;> simp [readHex, h]
  | cons x cs ih =>
    rw [List.cons_append, readHex, readHex]
    cases hexValue x with
    | none => rfl
    | some d => exact ih _

/-- Written digits read back as the number they write (R7, R39). -/
theorem readHex_hexDigits (k v : Nat) (h : v < 16 ^ k) : readHex 0 (hexDigits k v) = some v := by
  induction k generalizing v with
  | zero =>
    obtain rfl : v = 0 := by simpa using h
    rfl
  | succ k ih =>
    have hdiv : v / 16 < 16 ^ k := by
      rw [Nat.pow_succ] at h
      omega
    rw [hexDigits, readHex_concat, ih _ hdiv, hexValue_hexDigit _ (Nat.mod_lt _ (by decide)), Option.bind_some,
      Option.map_some, Nat.div_add_mod]

/-- The sixteen digits of a word read back as the word (R39). -/
theorem readHex_word (v : Word) : readHex 0 (hexDigits 16 v.toNat) = some v.toNat :=
  readHex_hexDigits 16 v.toNat v.isLt

/-! ### Two words with an underscore between them -/

/-- The end of both text forms: sixteen digits, `_`, sixteen digits (R39). -/
def twoWords (x y : Word) : List Char := hexDigits 16 x.toNat ++ '_' :: hexDigits 16 y.toNat

theorem textOfRequest_eq (i : Instr) :
    textOfRequest i = '0' :: 'x' :: hexDigit i.unit.code.toNat :: '_' :: twoWords i.opA i.opB := by
  rw [textOfRequest, twoWords]

theorem textOfResponse_eq (r : Response) : textOfResponse r = '0' :: 'x' :: twoWords r.hi r.lo := by
  rw [textOfResponse, twoWords]

@[simp] theorem twoWords_length (x y : Word) : (twoWords x y).length = 33 := by simp [twoWords]

theorem twoWords_take (x y : Word) : (twoWords x y).take 16 = hexDigits 16 x.toNat :=
  List.take_left' (hexDigits_length 16 _)

theorem twoWords_drop (x y : Word) : (twoWords x y).drop 17 = hexDigits 16 y.toNat := by
  have hassoc : twoWords x y = (hexDigits 16 x.toNat ++ ['_']) ++ hexDigits 16 y.toNat := by simp [twoWords]
  rw [hassoc]
  exact List.drop_left' (by simp)

theorem twoWords_separator (x y : Word) : (twoWords x y)[16]? = some '_' := by
  rw [twoWords, List.getElem?_append_right (by simp), hexDigits_length]
  rfl

/-- Digit `k` of the first word. -/
theorem twoWords_first (x y : Word) (k : Nat) (hk : k < 16) :
    (twoWords x y)[k]? = some (hexDigit (x.toNat / 16 ^ (15 - k) % 16)) := by
  rw [twoWords, List.getElem?_append_left (by rwa [hexDigits_length]), hexDigits_getElem? 16 _ k hk]

/-- Digit `k` of the second word. -/
theorem twoWords_second (x y : Word) (k : Nat) (hk : k < 16) :
    (twoWords x y)[17 + k]? = some (hexDigit (y.toNat / 16 ^ (15 - k) % 16)) := by
  rw [← List.getElem?_drop, twoWords_drop, hexDigits_getElem? 16 _ k hk]

/-! ### Reading records back -/

/-- The numbers of a call's unit code and operands name the call (R35). -/
theorem toInstr_parts (i : Instr) : RawRequest.toInstr ⟨i.unit.code.toNat, i.opA.toNat, i.opB.toNat⟩ = some i := by
  have hcode : i.unit.code.toNat < 3 := by cases i.unit <;> decide
  have hwf : RawRequest.wellFormed ⟨i.unit.code.toNat, i.opA.toNat, i.opB.toNat⟩ = true := by
    simp [RawRequest.wellFormed, hcode, i.opA.isLt, i.opB.isLt]
  rw [RawRequest.toInstr, if_pos hwf]
  simp only [BitVec.ofNat_toNat, BitVec.setWidth_eq]
  cases i with
  | mula a b => rfl
  | mulb a b => rfl
  | muln a b => rfl

/-- The text of a request reads back as the call (R39). -/
theorem requestOfText_textOfRequest (i : Instr) : requestOfText (textOfRequest i) = some i := by
  have hunit := hexValue_hexDigit i.unit.code.toNat (i.unit.code.isLt.trans (by decide))
  simp only [textOfRequest_eq, requestOfText, twoWords_length, twoWords_separator,
    and_self, if_true, twoWords_take, twoWords_drop, readHex_word, hunit, toInstr_parts]

/-- The text of a response reads back as the pair (R39). -/
theorem responseOfText_textOfResponse (r : Response) : responseOfText (textOfResponse r) = some r := by
  simp only [textOfResponse_eq, responseOfText, twoWords_length,
    twoWords_separator, and_self, if_true, twoWords_take, twoWords_drop, readHex_word, BitVec.ofNat_toNat,
    BitVec.setWidth_eq]

end Sys2Proof.Machine
end

section
/-! Text (spec/30_encoding.md R39): the records as text. -/

namespace Sys2Proof.Machine

/-- Settles O7: both texts end in two words of sixteen digits, and digits read back as their number. -/
theorem textFormsRoundTrip : Obligations.TextFormsRoundTrip := by
  refine ⟨by decide, fun i => ?request, fun r => ?response⟩
  case request =>
    have hdrop : (textOfRequest i).drop 4 = twoWords i.opA i.opB := by rw [textOfRequest_eq]; rfl
    refine ⟨by simp [textOfRequest_eq], rfl, rfl, ?_, rfl, ?_, fun k hk => ⟨?_, ?_⟩,
      requestOfText_textOfRequest i⟩
    · cases i with
      | mula a b => rfl
      | mulb a b => rfl
      | muln a b => rfl
    · rw [← twoWords_separator i.opA i.opB, ← hdrop, List.getElem?_drop]
    · rw [← twoWords_first i.opA i.opB k hk, ← hdrop, List.getElem?_drop]
    · rw [← twoWords_second i.opA i.opB k hk, ← hdrop, List.getElem?_drop, ← Nat.add_assoc]
  case response =>
    have hdrop : (textOfResponse r).drop 2 = twoWords r.hi r.lo := by rw [textOfResponse_eq]; rfl
    refine ⟨by simp [textOfResponse_eq], rfl, rfl, ?_, fun k hk => ⟨?_, ?_⟩, responseOfText_textOfResponse r⟩
    · rw [← twoWords_separator r.hi r.lo, ← hdrop, List.getElem?_drop]
    · rw [← twoWords_first r.hi r.lo k hk, ← hdrop, List.getElem?_drop]
    · rw [← twoWords_second r.hi r.lo k hk, ← hdrop, List.getElem?_drop, ← Nat.add_assoc]

end Sys2Proof.Machine
end

section
/-! The datapaths of MULA and MULB (spec/41_mul_a.md R53 to R56, spec/42_mul_b.md R62 to R66): splits, low limbs and
bounds of their nodes. -/

namespace Sys2Proof.Machine

/-! ### MULA -/

/-- A sum with a limb at bit 32 keeps the low limb of the other addend (R53). -/
theorem loLimb_sumWord_atBit32 (x : Word) (y : Limb) : loLimb (sumWord (sum65 x (atBit32 y))) = loLimb x := by
  apply BitVec.eq_of_toNat_eq
  simp only [loLimb_toNat, sumWord_toNat, sum65_toNat, atBit32_toNat]
  omega

/-- A limb at bit 32 is at most `2^64 - 2^32` (R55). -/
theorem atBit32_toNat_le (x : Limb) : (atBit32 x).toNat ≤ 2 ^ 64 - 2 ^ 32 := by
  have := x.isLt
  rw [atBit32_toNat]
  omega

/-- Settles O29: each sum splits into word and carry, and its second addend has no low limb. -/
theorem mulaCarryChainLosesNothing : Obligations.MulaCarryChainLosesNothing := by
  intro a b
  have hlo : loLimb (nodesA a b).lo = loLimb (nodesA a b).t1 := loLimb_sumWord_atBit32 _ _
  have ht1 : loLimb (nodesA a b).t1 = loLimb (nodesA a b).p00 := loLimb_sumWord_atBit32 _ _
  exact ⟨(sum65_split _ _).symm, (sum65_split _ _).symm, hlo.trans ht1, nodesA_hi_toNat a b⟩

/-- Settles O30: the bounds of the partial products and shifted limbs, and from them those of the sums. -/
theorem mulaNodesStayWithinTheirBounds : Obligations.MulaNodesStayWithinTheirBounds := by
  intro a b
  have hp00 : (nodesA a b).p00.toNat ≤ 2 ^ 64 - 2 ^ 33 + 1 := mulLimb_toNat_le _ _
  have hx01 : (nodesA a b).x01.toNat ≤ 2 ^ 64 - 2 ^ 32 := atBit32_toNat_le _
  have hx10 : (nodesA a b).x10.toNat ≤ 2 ^ 64 - 2 ^ 32 := atBit32_toNat_le _
  have ht1 := (nodesA a b).t1.isLt
  have hhi : (nodesA a b).hi.toNat ≤ 2 ^ 64 - 2 := by
    rw [← mulA_hi, eq_exactProduct_of_value _ a b (mulA_value a b)]
    exact exactProduct_hi_le a b
  refine ⟨hp00, mulLimb_toNat_le _ _, mulLimb_toNat_le _ _, mulLimb_toNat_le _ _, hx01, hx10, ?_, ?_,
    hiLimb_mulLimb_toNat_le _ _, hiLimb_mulLimb_toNat_le _ _, hhi⟩
  · rw [nodesA_s1, sum65_toNat]
    omega
  · rw [nodesA_s2, sum65_toNat]
    omega

/-! ### MULB -/

/-- A word is its low limb and its carry word (R62, R63). -/
theorem toNat_eq_limbs (v : Word) : v.toNat = (loLimb v).toNat + (hiLimb v).toNat * 2 ^ 32 := by
  rw [Nat.add_comm, limbs_split]

/-- Settles O32: each column's sum is exact and splits into its limbs, and its bound bounds its carry word. -/
theorem mulbColumnsNeverWrap : Obligations.MulbColumnsNeverWrap := by
  intro a b
  have ht1 : (nodesB a b).t1.toNat ≤ 2 ^ 64 - 2 ^ 32 - 1 := by
    rw [nodesB_t1_toNat]
    exact nodesB_q10_add_k0_le a b
  have ht2 : (nodesB a b).t2.toNat ≤ 2 ^ 64 - 2 ^ 32 := by
    rw [nodesB_t2_toNat]
    exact nodesB_q01_add_w1_le a b
  have hhi : (nodesB a b).hi.toNat ≤ 2 ^ 64 - 2 := by
    rw [nodesB_hi_toNat]
    exact nodesB_q11_add_w2_add_k2_le a b
  have hw2 : (nodesB a b).w2.toNat ≤ 2 ^ 32 - 2 := by
    rw [nodesB_w2, hiLimb_toNat]
    omega
  exact ⟨toNat_eq_limbs _, nodesB_t1_toNat a b, toNat_eq_limbs _, nodesB_t2_toNat a b, toNat_eq_limbs _,
    nodesB_lo_toNat a b, nodesB_hi_toNat a b, hiLimb_mulLimb_toNat_le _ _, hw2, ht1, ht2, hhi⟩

end Sys2Proof.Machine
end

section
/-! Calls (spec/10_state.md R2, R10, R16, R18, R19, spec/40_contract.md R48): the frame of a call, its one result, and
the first call after reset. -/

namespace Sys2Proof.Machine

/-- Settles O18: a call replaces its own unit's ports and adds one slot. -/
theorem callChangesOnlyItsSlotAndItsOwnPorts : Obligations.CallChangesOnlyItsSlotAndItsOwnPorts := by
  intro i s
  refine ⟨_, _, exec_eq i s, rfl, fun u hu => group_setGroup_of_ne _ _ _ _ hu, ?_, ?_, rfl, rfl, rfl, rfl, rfl, rfl⟩
  · rw [completeCall_ports, group_setGroup_self, settleNow_a, setInputs_a]
  · rw [completeCall_ports, group_setGroup_self, settleNow_b, setInputs_b]

/-- Settles O26: the equation of a call names its unit and its operands, and of the state only what it adds to. -/
theorem resultDependsOnUnitAndOperandsOnly : Obligations.ResultDependsOnUnitAndOperandsOnly := by
  intro u a b
  exact ⟨_, rfl, fun s => ⟨_, exec_eq _ s, by simp⟩⟩

/-- Settles O1: the fields of the reset state, and a call from there as from any state. -/
theorem resetHoldsNothingAndFirstCallIsExact : Obligations.ResetHoldsNothingAndFirstCallIsExact :=
  ⟨rfl, rfl, rfl, rfl, rfl, rfl, group_reset, step_of_no_work _ rfl,
    fun i => ⟨_, exec_eq_exactProduct i _, rfl⟩⟩

end Sys2Proof.Machine
end
